-- ==== Sys2Proof/Word.lean ====
section
/-! DEFINITION. The widths of the machine's data and the plain-data shape of its memories (00_scope R6, R8). -/

namespace Sys2Proof

/-- A `u8` of the spec (R8): every register but PC, every memory cell, every bus datum. -/
abbrev Byte := BitVec 8

/-- A `u16` of the spec (R8): PC and CPU addresses. -/
abbrev Word := BitVec 16

/-- A sparse table in one canonical form: keys strictly rising, no entry equal to what an unlisted key reads as. -/
abbrev Sparse (α : Type) := List (Nat × α)

/-- A memory: listed bytes by address; an unlisted address reads as 0 (POWER_ON_MEMORY, log 2). -/
abbrev Mem := List Host.Cell

/-- A picture: the rows that hold a nonzero pixel, each the nonzero colour indices by column (61_ppu R1146). -/
abbrev Frame := Sparse Mem

end Sys2Proof
end

