-- ==== Sys2Proof/Syntax.lean ====
section
/-! DEFINITION. The instructions: one constructor per row of spec/opcode_table.json, that is per assigned opcode byte
(30_encoding R305). An operand is what the format carries: a byte (F2) or a little-endian word (F3) (R301). -/

namespace Sys2Proof

/-- The thirteen addressing modes (30_encoding R301). -/
inductive Mode where
  | implied
  | accumulator
  | immediate
  | zeroPage
  | zeroPageX
  | zeroPageY
  | relative
  | absolute
  | absoluteX
  | absoluteY
  | indirect
  | indexedIndirectX
  | indirectIndexedY
deriving DecidableEq, Repr

/-- The length in bytes of an instruction in each mode (30_encoding R301). -/
def Mode.length : Mode → Nat
  | .implied | .accumulator => 1
  | .immediate | .zeroPage | .zeroPageX | .zeroPageY | .relative | .indexedIndirectX | .indirectIndexedY => 2
  | .absolute | .absoluteX | .absoluteY | .indirect => 3

/-- The documented instruction set (30_encoding R305): mnemonic, then the addressing mode's short name of R301. -/
inductive Instr where
  -- Loads and stores (40_addressing_load_store)
  /-- 0xA1 `LDA ($nn,X)` (R430). -/
  | ldaIzx (z : Byte)
  /-- 0xA5 `LDA $nn` (R430). -/
  | ldaZp (z : Byte)
  /-- 0xA9 `LDA #$nn` (R430). -/
  | ldaImm (v : Byte)
  /-- 0xAD `LDA $nnnn` (R430). -/
  | ldaAbs (a : Word)
  /-- 0xB1 `LDA ($nn),Y` (R430). -/
  | ldaIzy (z : Byte)
  /-- 0xB5 `LDA $nn,X` (R430). -/
  | ldaZpx (z : Byte)
  /-- 0xB9 `LDA $nnnn,Y` (R430). -/
  | ldaAby (a : Word)
  /-- 0xBD `LDA $nnnn,X` (R430). -/
  | ldaAbx (a : Word)
  /-- 0xA2 `LDX #$nn` (R431). -/
  | ldxImm (v : Byte)
  /-- 0xA6 `LDX $nn` (R431). -/
  | ldxZp (z : Byte)
  /-- 0xAE `LDX $nnnn` (R431). -/
  | ldxAbs (a : Word)
  /-- 0xB6 `LDX $nn,Y` (R431). -/
  | ldxZpy (z : Byte)
  /-- 0xBE `LDX $nnnn,Y` (R431). -/
  | ldxAby (a : Word)
  /-- 0xA0 `LDY #$nn` (R432). -/
  | ldyImm (v : Byte)
  /-- 0xA4 `LDY $nn` (R432). -/
  | ldyZp (z : Byte)
  /-- 0xAC `LDY $nnnn` (R432). -/
  | ldyAbs (a : Word)
  /-- 0xB4 `LDY $nn,X` (R432). -/
  | ldyZpx (z : Byte)
  /-- 0xBC `LDY $nnnn,X` (R432). -/
  | ldyAbx (a : Word)
  /-- 0x81 `STA ($nn,X)` (R433). -/
  | staIzx (z : Byte)
  /-- 0x85 `STA $nn` (R433). -/
  | staZp (z : Byte)
  /-- 0x8D `STA $nnnn` (R433). -/
  | staAbs (a : Word)
  /-- 0x91 `STA ($nn),Y` (R433). -/
  | staIzy (z : Byte)
  /-- 0x95 `STA $nn,X` (R433). -/
  | staZpx (z : Byte)
  /-- 0x99 `STA $nnnn,Y` (R433). -/
  | staAby (a : Word)
  /-- 0x9D `STA $nnnn,X` (R433). -/
  | staAbx (a : Word)
  /-- 0x86 `STX $nn` (R434). -/
  | stxZp (z : Byte)
  /-- 0x8E `STX $nnnn` (R434). -/
  | stxAbs (a : Word)
  /-- 0x96 `STX $nn,Y` (R434). -/
  | stxZpy (z : Byte)
  /-- 0x84 `STY $nn` (R435). -/
  | styZp (z : Byte)
  /-- 0x8C `STY $nnnn` (R435). -/
  | styAbs (a : Word)
  /-- 0x94 `STY $nn,X` (R435). -/
  | styZpx (z : Byte)
  -- Transfers and stack (41_transfer_stack)
  /-- 0xAA `TAX` (R500). -/
  | tax
  /-- 0xA8 `TAY` (R501). -/
  | tay
  /-- 0x8A `TXA` (R502). -/
  | txa
  /-- 0x98 `TYA` (R503). -/
  | tya
  /-- 0xBA `TSX` (R504). -/
  | tsx
  /-- 0x9A `TXS` (R505). -/
  | txs
  /-- 0x48 `PHA` (R506). -/
  | pha
  /-- 0x08 `PHP` (R507). -/
  | php
  /-- 0x68 `PLA` (R508). -/
  | pla
  /-- 0x28 `PLP` (R509). -/
  | plp
  -- Logic, arithmetic, compare, increment, decrement (42_logic_arith)
  /-- 0x21 `AND ($nn,X)` (R601). -/
  | andIzx (z : Byte)
  /-- 0x25 `AND $nn` (R601). -/
  | andZp (z : Byte)
  /-- 0x29 `AND #$nn` (R601). -/
  | andImm (v : Byte)
  /-- 0x2D `AND $nnnn` (R601). -/
  | andAbs (a : Word)
  /-- 0x31 `AND ($nn),Y` (R601). -/
  | andIzy (z : Byte)
  /-- 0x35 `AND $nn,X` (R601). -/
  | andZpx (z : Byte)
  /-- 0x39 `AND $nnnn,Y` (R601). -/
  | andAby (a : Word)
  /-- 0x3D `AND $nnnn,X` (R601). -/
  | andAbx (a : Word)
  /-- 0x01 `ORA ($nn,X)` (R602). -/
  | oraIzx (z : Byte)
  /-- 0x05 `ORA $nn` (R602). -/
  | oraZp (z : Byte)
  /-- 0x09 `ORA #$nn` (R602). -/
  | oraImm (v : Byte)
  /-- 0x0D `ORA $nnnn` (R602). -/
  | oraAbs (a : Word)
  /-- 0x11 `ORA ($nn),Y` (R602). -/
  | oraIzy (z : Byte)
  /-- 0x15 `ORA $nn,X` (R602). -/
  | oraZpx (z : Byte)
  /-- 0x19 `ORA $nnnn,Y` (R602). -/
  | oraAby (a : Word)
  /-- 0x1D `ORA $nnnn,X` (R602). -/
  | oraAbx (a : Word)
  /-- 0x41 `EOR ($nn,X)` (R603). -/
  | eorIzx (z : Byte)
  /-- 0x45 `EOR $nn` (R603). -/
  | eorZp (z : Byte)
  /-- 0x49 `EOR #$nn` (R603). -/
  | eorImm (v : Byte)
  /-- 0x4D `EOR $nnnn` (R603). -/
  | eorAbs (a : Word)
  /-- 0x51 `EOR ($nn),Y` (R603). -/
  | eorIzy (z : Byte)
  /-- 0x55 `EOR $nn,X` (R603). -/
  | eorZpx (z : Byte)
  /-- 0x59 `EOR $nnnn,Y` (R603). -/
  | eorAby (a : Word)
  /-- 0x5D `EOR $nnnn,X` (R603). -/
  | eorAbx (a : Word)
  /-- 0x24 `BIT $nn` (R604). -/
  | bitZp (z : Byte)
  /-- 0x2C `BIT $nnnn` (R604). -/
  | bitAbs (a : Word)
  /-- 0x61 `ADC ($nn,X)` (R605). -/
  | adcIzx (z : Byte)
  /-- 0x65 `ADC $nn` (R605). -/
  | adcZp (z : Byte)
  /-- 0x69 `ADC #$nn` (R605). -/
  | adcImm (v : Byte)
  /-- 0x6D `ADC $nnnn` (R605). -/
  | adcAbs (a : Word)
  /-- 0x71 `ADC ($nn),Y` (R605). -/
  | adcIzy (z : Byte)
  /-- 0x75 `ADC $nn,X` (R605). -/
  | adcZpx (z : Byte)
  /-- 0x79 `ADC $nnnn,Y` (R605). -/
  | adcAby (a : Word)
  /-- 0x7D `ADC $nnnn,X` (R605). -/
  | adcAbx (a : Word)
  /-- 0xE1 `SBC ($nn,X)` (R607). -/
  | sbcIzx (z : Byte)
  /-- 0xE5 `SBC $nn` (R607). -/
  | sbcZp (z : Byte)
  /-- 0xE9 `SBC #$nn` (R607). -/
  | sbcImm (v : Byte)
  /-- 0xED `SBC $nnnn` (R607). -/
  | sbcAbs (a : Word)
  /-- 0xF1 `SBC ($nn),Y` (R607). -/
  | sbcIzy (z : Byte)
  /-- 0xF5 `SBC $nn,X` (R607). -/
  | sbcZpx (z : Byte)
  /-- 0xF9 `SBC $nnnn,Y` (R607). -/
  | sbcAby (a : Word)
  /-- 0xFD `SBC $nnnn,X` (R607). -/
  | sbcAbx (a : Word)
  /-- 0xC1 `CMP ($nn,X)` (R609). -/
  | cmpIzx (z : Byte)
  /-- 0xC5 `CMP $nn` (R609). -/
  | cmpZp (z : Byte)
  /-- 0xC9 `CMP #$nn` (R609). -/
  | cmpImm (v : Byte)
  /-- 0xCD `CMP $nnnn` (R609). -/
  | cmpAbs (a : Word)
  /-- 0xD1 `CMP ($nn),Y` (R609). -/
  | cmpIzy (z : Byte)
  /-- 0xD5 `CMP $nn,X` (R609). -/
  | cmpZpx (z : Byte)
  /-- 0xD9 `CMP $nnnn,Y` (R609). -/
  | cmpAby (a : Word)
  /-- 0xDD `CMP $nnnn,X` (R609). -/
  | cmpAbx (a : Word)
  /-- 0xE0 `CPX #$nn` (R610). -/
  | cpxImm (v : Byte)
  /-- 0xE4 `CPX $nn` (R610). -/
  | cpxZp (z : Byte)
  /-- 0xEC `CPX $nnnn` (R610). -/
  | cpxAbs (a : Word)
  /-- 0xC0 `CPY #$nn` (R611). -/
  | cpyImm (v : Byte)
  /-- 0xC4 `CPY $nn` (R611). -/
  | cpyZp (z : Byte)
  /-- 0xCC `CPY $nnnn` (R611). -/
  | cpyAbs (a : Word)
  /-- 0xE6 `INC $nn` (R612). -/
  | incZp (z : Byte)
  /-- 0xEE `INC $nnnn` (R612). -/
  | incAbs (a : Word)
  /-- 0xF6 `INC $nn,X` (R612). -/
  | incZpx (z : Byte)
  /-- 0xFE `INC $nnnn,X` (R612). -/
  | incAbx (a : Word)
  /-- 0xC6 `DEC $nn` (R613). -/
  | decZp (z : Byte)
  /-- 0xCE `DEC $nnnn` (R613). -/
  | decAbs (a : Word)
  /-- 0xD6 `DEC $nn,X` (R613). -/
  | decZpx (z : Byte)
  /-- 0xDE `DEC $nnnn,X` (R613). -/
  | decAbx (a : Word)
  /-- 0xE8 `INX` (R614). -/
  | inx
  /-- 0xC8 `INY` (R615). -/
  | iny
  /-- 0xCA `DEX` (R616). -/
  | dex
  /-- 0x88 `DEY` (R617). -/
  | dey
  -- Shifts and rotates (43_shift_rotate)
  /-- 0x06 `ASL $nn` (R700). -/
  | aslZp (z : Byte)
  /-- 0x0A `ASL A` (R700). -/
  | aslAcc
  /-- 0x0E `ASL $nnnn` (R700). -/
  | aslAbs (a : Word)
  /-- 0x16 `ASL $nn,X` (R700). -/
  | aslZpx (z : Byte)
  /-- 0x1E `ASL $nnnn,X` (R700). -/
  | aslAbx (a : Word)
  /-- 0x46 `LSR $nn` (R701). -/
  | lsrZp (z : Byte)
  /-- 0x4A `LSR A` (R701). -/
  | lsrAcc
  /-- 0x4E `LSR $nnnn` (R701). -/
  | lsrAbs (a : Word)
  /-- 0x56 `LSR $nn,X` (R701). -/
  | lsrZpx (z : Byte)
  /-- 0x5E `LSR $nnnn,X` (R701). -/
  | lsrAbx (a : Word)
  /-- 0x26 `ROL $nn` (R702). -/
  | rolZp (z : Byte)
  /-- 0x2A `ROL A` (R702). -/
  | rolAcc
  /-- 0x2E `ROL $nnnn` (R702). -/
  | rolAbs (a : Word)
  /-- 0x36 `ROL $nn,X` (R702). -/
  | rolZpx (z : Byte)
  /-- 0x3E `ROL $nnnn,X` (R702). -/
  | rolAbx (a : Word)
  /-- 0x66 `ROR $nn` (R703). -/
  | rorZp (z : Byte)
  /-- 0x6A `ROR A` (R703). -/
  | rorAcc
  /-- 0x6E `ROR $nnnn` (R703). -/
  | rorAbs (a : Word)
  /-- 0x76 `ROR $nn,X` (R703). -/
  | rorZpx (z : Byte)
  /-- 0x7E `ROR $nnnn,X` (R703). -/
  | rorAbx (a : Word)
  -- Control transfer (44_control)
  /-- 0x4C `JMP $nnnn` (R800). -/
  | jmpAbs (a : Word)
  /-- 0x6C `JMP ($nnnn)` (R800). -/
  | jmpInd (a : Word)
  /-- 0x20 `JSR $nnnn` (R801). -/
  | jsr (a : Word)
  /-- 0x60 `RTS` (R802). -/
  | rts
  /-- 0x90 `BCC label` (R811). -/
  | bcc (d : Byte)
  /-- 0xB0 `BCS label` (R812). -/
  | bcs (d : Byte)
  /-- 0xF0 `BEQ label` (R813). -/
  | beq (d : Byte)
  /-- 0xD0 `BNE label` (R814). -/
  | bne (d : Byte)
  /-- 0x30 `BMI label` (R815). -/
  | bmi (d : Byte)
  /-- 0x10 `BPL label` (R816). -/
  | bpl (d : Byte)
  /-- 0x50 `BVC label` (R817). -/
  | bvc (d : Byte)
  /-- 0x70 `BVS label` (R818). -/
  | bvs (d : Byte)
  /-- 0x00 `BRK` (R820). -/
  | brk
  /-- 0x40 `RTI` (R821). -/
  | rti
  /-- 0xEA `NOP` (R830). -/
  | nop
  -- Status flags (45_flags)
  /-- 0x18 `CLC` (R900). -/
  | clc
  /-- 0x38 `SEC` (R901). -/
  | sec
  /-- 0x58 `CLI` (R902). -/
  | cli
  /-- 0x78 `SEI` (R903). -/
  | sei
  /-- 0xD8 `CLD` (R904). -/
  | cld
  /-- 0xF8 `SED` (R905). -/
  | sed
  /-- 0xB8 `CLV` (R906). -/
  | clv
deriving DecidableEq, Repr

/-- The addressing mode of an instruction (30_encoding R305). -/
def Instr.mode : Instr → Mode
  | .ldaIzx _ => .indexedIndirectX
  | .ldaZp _ => .zeroPage
  | .ldaImm _ => .immediate
  | .ldaAbs _ => .absolute
  | .ldaIzy _ => .indirectIndexedY
  | .ldaZpx _ => .zeroPageX
  | .ldaAby _ => .absoluteY
  | .ldaAbx _ => .absoluteX
  | .ldxImm _ => .immediate
  | .ldxZp _ => .zeroPage
  | .ldxAbs _ => .absolute
  | .ldxZpy _ => .zeroPageY
  | .ldxAby _ => .absoluteY
  | .ldyImm _ => .immediate
  | .ldyZp _ => .zeroPage
  | .ldyAbs _ => .absolute
  | .ldyZpx _ => .zeroPageX
  | .ldyAbx _ => .absoluteX
  | .staIzx _ => .indexedIndirectX
  | .staZp _ => .zeroPage
  | .staAbs _ => .absolute
  | .staIzy _ => .indirectIndexedY
  | .staZpx _ => .zeroPageX
  | .staAby _ => .absoluteY
  | .staAbx _ => .absoluteX
  | .stxZp _ => .zeroPage
  | .stxAbs _ => .absolute
  | .stxZpy _ => .zeroPageY
  | .styZp _ => .zeroPage
  | .styAbs _ => .absolute
  | .styZpx _ => .zeroPageX
  | .tax => .implied
  | .tay => .implied
  | .txa => .implied
  | .tya => .implied
  | .tsx => .implied
  | .txs => .implied
  | .pha => .implied
  | .php => .implied
  | .pla => .implied
  | .plp => .implied
  | .andIzx _ => .indexedIndirectX
  | .andZp _ => .zeroPage
  | .andImm _ => .immediate
  | .andAbs _ => .absolute
  | .andIzy _ => .indirectIndexedY
  | .andZpx _ => .zeroPageX
  | .andAby _ => .absoluteY
  | .andAbx _ => .absoluteX
  | .oraIzx _ => .indexedIndirectX
  | .oraZp _ => .zeroPage
  | .oraImm _ => .immediate
  | .oraAbs _ => .absolute
  | .oraIzy _ => .indirectIndexedY
  | .oraZpx _ => .zeroPageX
  | .oraAby _ => .absoluteY
  | .oraAbx _ => .absoluteX
  | .eorIzx _ => .indexedIndirectX
  | .eorZp _ => .zeroPage
  | .eorImm _ => .immediate
  | .eorAbs _ => .absolute
  | .eorIzy _ => .indirectIndexedY
  | .eorZpx _ => .zeroPageX
  | .eorAby _ => .absoluteY
  | .eorAbx _ => .absoluteX
  | .bitZp _ => .zeroPage
  | .bitAbs _ => .absolute
  | .adcIzx _ => .indexedIndirectX
  | .adcZp _ => .zeroPage
  | .adcImm _ => .immediate
  | .adcAbs _ => .absolute
  | .adcIzy _ => .indirectIndexedY
  | .adcZpx _ => .zeroPageX
  | .adcAby _ => .absoluteY
  | .adcAbx _ => .absoluteX
  | .sbcIzx _ => .indexedIndirectX
  | .sbcZp _ => .zeroPage
  | .sbcImm _ => .immediate
  | .sbcAbs _ => .absolute
  | .sbcIzy _ => .indirectIndexedY
  | .sbcZpx _ => .zeroPageX
  | .sbcAby _ => .absoluteY
  | .sbcAbx _ => .absoluteX
  | .cmpIzx _ => .indexedIndirectX
  | .cmpZp _ => .zeroPage
  | .cmpImm _ => .immediate
  | .cmpAbs _ => .absolute
  | .cmpIzy _ => .indirectIndexedY
  | .cmpZpx _ => .zeroPageX
  | .cmpAby _ => .absoluteY
  | .cmpAbx _ => .absoluteX
  | .cpxImm _ => .immediate
  | .cpxZp _ => .zeroPage
  | .cpxAbs _ => .absolute
  | .cpyImm _ => .immediate
  | .cpyZp _ => .zeroPage
  | .cpyAbs _ => .absolute
  | .incZp _ => .zeroPage
  | .incAbs _ => .absolute
  | .incZpx _ => .zeroPageX
  | .incAbx _ => .absoluteX
  | .decZp _ => .zeroPage
  | .decAbs _ => .absolute
  | .decZpx _ => .zeroPageX
  | .decAbx _ => .absoluteX
  | .inx => .implied
  | .iny => .implied
  | .dex => .implied
  | .dey => .implied
  | .aslZp _ => .zeroPage
  | .aslAcc => .accumulator
  | .aslAbs _ => .absolute
  | .aslZpx _ => .zeroPageX
  | .aslAbx _ => .absoluteX
  | .lsrZp _ => .zeroPage
  | .lsrAcc => .accumulator
  | .lsrAbs _ => .absolute
  | .lsrZpx _ => .zeroPageX
  | .lsrAbx _ => .absoluteX
  | .rolZp _ => .zeroPage
  | .rolAcc => .accumulator
  | .rolAbs _ => .absolute
  | .rolZpx _ => .zeroPageX
  | .rolAbx _ => .absoluteX
  | .rorZp _ => .zeroPage
  | .rorAcc => .accumulator
  | .rorAbs _ => .absolute
  | .rorZpx _ => .zeroPageX
  | .rorAbx _ => .absoluteX
  | .jmpAbs _ => .absolute
  | .jmpInd _ => .indirect
  | .jsr _ => .absolute
  | .rts => .implied
  | .bcc _ => .relative
  | .bcs _ => .relative
  | .beq _ => .relative
  | .bne _ => .relative
  | .bmi _ => .relative
  | .bpl _ => .relative
  | .bvc _ => .relative
  | .bvs _ => .relative
  | .brk => .implied
  | .rti => .implied
  | .nop => .implied
  | .clc => .implied
  | .sec => .implied
  | .cli => .implied
  | .sei => .implied
  | .cld => .implied
  | .sed => .implied
  | .clv => .implied

/-- The 56 mnemonics (30_encoding R305). -/
inductive Mnemonic where
  | lda | ldx | ldy | sta | stx | sty | tax | tay | txa | tya | tsx | txs
  | pha | php | pla | plp | and | ora | eor | bit | adc | sbc | cmp | cpx
  | cpy | inc | dec | inx | iny | dex | dey | asl | lsr | rol | ror | jmp
  | jsr | rts | bcc | bcs | beq | bne | bmi | bpl | bvc | bvs | brk | rti
  | nop | clc | sec | cli | sei | cld | sed | clv
deriving DecidableEq, Repr

/-- The mnemonic of an instruction (30_encoding R305). -/
def Instr.mnemonic : Instr → Mnemonic
  | .ldaIzx _ => .lda
  | .ldaZp _ => .lda
  | .ldaImm _ => .lda
  | .ldaAbs _ => .lda
  | .ldaIzy _ => .lda
  | .ldaZpx _ => .lda
  | .ldaAby _ => .lda
  | .ldaAbx _ => .lda
  | .ldxImm _ => .ldx
  | .ldxZp _ => .ldx
  | .ldxAbs _ => .ldx
  | .ldxZpy _ => .ldx
  | .ldxAby _ => .ldx
  | .ldyImm _ => .ldy
  | .ldyZp _ => .ldy
  | .ldyAbs _ => .ldy
  | .ldyZpx _ => .ldy
  | .ldyAbx _ => .ldy
  | .staIzx _ => .sta
  | .staZp _ => .sta
  | .staAbs _ => .sta
  | .staIzy _ => .sta
  | .staZpx _ => .sta
  | .staAby _ => .sta
  | .staAbx _ => .sta
  | .stxZp _ => .stx
  | .stxAbs _ => .stx
  | .stxZpy _ => .stx
  | .styZp _ => .sty
  | .styAbs _ => .sty
  | .styZpx _ => .sty
  | .tax => .tax
  | .tay => .tay
  | .txa => .txa
  | .tya => .tya
  | .tsx => .tsx
  | .txs => .txs
  | .pha => .pha
  | .php => .php
  | .pla => .pla
  | .plp => .plp
  | .andIzx _ => .and
  | .andZp _ => .and
  | .andImm _ => .and
  | .andAbs _ => .and
  | .andIzy _ => .and
  | .andZpx _ => .and
  | .andAby _ => .and
  | .andAbx _ => .and
  | .oraIzx _ => .ora
  | .oraZp _ => .ora
  | .oraImm _ => .ora
  | .oraAbs _ => .ora
  | .oraIzy _ => .ora
  | .oraZpx _ => .ora
  | .oraAby _ => .ora
  | .oraAbx _ => .ora
  | .eorIzx _ => .eor
  | .eorZp _ => .eor
  | .eorImm _ => .eor
  | .eorAbs _ => .eor
  | .eorIzy _ => .eor
  | .eorZpx _ => .eor
  | .eorAby _ => .eor
  | .eorAbx _ => .eor
  | .bitZp _ => .bit
  | .bitAbs _ => .bit
  | .adcIzx _ => .adc
  | .adcZp _ => .adc
  | .adcImm _ => .adc
  | .adcAbs _ => .adc
  | .adcIzy _ => .adc
  | .adcZpx _ => .adc
  | .adcAby _ => .adc
  | .adcAbx _ => .adc
  | .sbcIzx _ => .sbc
  | .sbcZp _ => .sbc
  | .sbcImm _ => .sbc
  | .sbcAbs _ => .sbc
  | .sbcIzy _ => .sbc
  | .sbcZpx _ => .sbc
  | .sbcAby _ => .sbc
  | .sbcAbx _ => .sbc
  | .cmpIzx _ => .cmp
  | .cmpZp _ => .cmp
  | .cmpImm _ => .cmp
  | .cmpAbs _ => .cmp
  | .cmpIzy _ => .cmp
  | .cmpZpx _ => .cmp
  | .cmpAby _ => .cmp
  | .cmpAbx _ => .cmp
  | .cpxImm _ => .cpx
  | .cpxZp _ => .cpx
  | .cpxAbs _ => .cpx
  | .cpyImm _ => .cpy
  | .cpyZp _ => .cpy
  | .cpyAbs _ => .cpy
  | .incZp _ => .inc
  | .incAbs _ => .inc
  | .incZpx _ => .inc
  | .incAbx _ => .inc
  | .decZp _ => .dec
  | .decAbs _ => .dec
  | .decZpx _ => .dec
  | .decAbx _ => .dec
  | .inx => .inx
  | .iny => .iny
  | .dex => .dex
  | .dey => .dey
  | .aslZp _ => .asl
  | .aslAcc => .asl
  | .aslAbs _ => .asl
  | .aslZpx _ => .asl
  | .aslAbx _ => .asl
  | .lsrZp _ => .lsr
  | .lsrAcc => .lsr
  | .lsrAbs _ => .lsr
  | .lsrZpx _ => .lsr
  | .lsrAbx _ => .lsr
  | .rolZp _ => .rol
  | .rolAcc => .rol
  | .rolAbs _ => .rol
  | .rolZpx _ => .rol
  | .rolAbx _ => .rol
  | .rorZp _ => .ror
  | .rorAcc => .ror
  | .rorAbs _ => .ror
  | .rorZpx _ => .ror
  | .rorAbx _ => .ror
  | .jmpAbs _ => .jmp
  | .jmpInd _ => .jmp
  | .jsr _ => .jsr
  | .rts => .rts
  | .bcc _ => .bcc
  | .bcs _ => .bcs
  | .beq _ => .beq
  | .bne _ => .bne
  | .bmi _ => .bmi
  | .bpl _ => .bpl
  | .bvc _ => .bvc
  | .bvs _ => .bvs
  | .brk => .brk
  | .rti => .rti
  | .nop => .nop
  | .clc => .clc
  | .sec => .sec
  | .cli => .cli
  | .sei => .sei
  | .cld => .cld
  | .sed => .sed
  | .clv => .clv

/-- The row's base cycle count (30_encoding R305, 70_reset_and_hazards R1340). -/
def Instr.cycles : Instr → Nat
  | .ldaIzx _ => 6
  | .ldaZp _ => 3
  | .ldaImm _ => 2
  | .ldaAbs _ => 4
  | .ldaIzy _ => 5
  | .ldaZpx _ => 4
  | .ldaAby _ => 4
  | .ldaAbx _ => 4
  | .ldxImm _ => 2
  | .ldxZp _ => 3
  | .ldxAbs _ => 4
  | .ldxZpy _ => 4
  | .ldxAby _ => 4
  | .ldyImm _ => 2
  | .ldyZp _ => 3
  | .ldyAbs _ => 4
  | .ldyZpx _ => 4
  | .ldyAbx _ => 4
  | .staIzx _ => 6
  | .staZp _ => 3
  | .staAbs _ => 4
  | .staIzy _ => 6
  | .staZpx _ => 4
  | .staAby _ => 5
  | .staAbx _ => 5
  | .stxZp _ => 3
  | .stxAbs _ => 4
  | .stxZpy _ => 4
  | .styZp _ => 3
  | .styAbs _ => 4
  | .styZpx _ => 4
  | .tax => 2
  | .tay => 2
  | .txa => 2
  | .tya => 2
  | .tsx => 2
  | .txs => 2
  | .pha => 3
  | .php => 3
  | .pla => 4
  | .plp => 4
  | .andIzx _ => 6
  | .andZp _ => 3
  | .andImm _ => 2
  | .andAbs _ => 4
  | .andIzy _ => 5
  | .andZpx _ => 4
  | .andAby _ => 4
  | .andAbx _ => 4
  | .oraIzx _ => 6
  | .oraZp _ => 3
  | .oraImm _ => 2
  | .oraAbs _ => 4
  | .oraIzy _ => 5
  | .oraZpx _ => 4
  | .oraAby _ => 4
  | .oraAbx _ => 4
  | .eorIzx _ => 6
  | .eorZp _ => 3
  | .eorImm _ => 2
  | .eorAbs _ => 4
  | .eorIzy _ => 5
  | .eorZpx _ => 4
  | .eorAby _ => 4
  | .eorAbx _ => 4
  | .bitZp _ => 3
  | .bitAbs _ => 4
  | .adcIzx _ => 6
  | .adcZp _ => 3
  | .adcImm _ => 2
  | .adcAbs _ => 4
  | .adcIzy _ => 5
  | .adcZpx _ => 4
  | .adcAby _ => 4
  | .adcAbx _ => 4
  | .sbcIzx _ => 6
  | .sbcZp _ => 3
  | .sbcImm _ => 2
  | .sbcAbs _ => 4
  | .sbcIzy _ => 5
  | .sbcZpx _ => 4
  | .sbcAby _ => 4
  | .sbcAbx _ => 4
  | .cmpIzx _ => 6
  | .cmpZp _ => 3
  | .cmpImm _ => 2
  | .cmpAbs _ => 4
  | .cmpIzy _ => 5
  | .cmpZpx _ => 4
  | .cmpAby _ => 4
  | .cmpAbx _ => 4
  | .cpxImm _ => 2
  | .cpxZp _ => 3
  | .cpxAbs _ => 4
  | .cpyImm _ => 2
  | .cpyZp _ => 3
  | .cpyAbs _ => 4
  | .incZp _ => 5
  | .incAbs _ => 6
  | .incZpx _ => 6
  | .incAbx _ => 7
  | .decZp _ => 5
  | .decAbs _ => 6
  | .decZpx _ => 6
  | .decAbx _ => 7
  | .inx => 2
  | .iny => 2
  | .dex => 2
  | .dey => 2
  | .aslZp _ => 5
  | .aslAcc => 2
  | .aslAbs _ => 6
  | .aslZpx _ => 6
  | .aslAbx _ => 7
  | .lsrZp _ => 5
  | .lsrAcc => 2
  | .lsrAbs _ => 6
  | .lsrZpx _ => 6
  | .lsrAbx _ => 7
  | .rolZp _ => 5
  | .rolAcc => 2
  | .rolAbs _ => 6
  | .rolZpx _ => 6
  | .rolAbx _ => 7
  | .rorZp _ => 5
  | .rorAcc => 2
  | .rorAbs _ => 6
  | .rorZpx _ => 6
  | .rorAbx _ => 7
  | .jmpAbs _ => 3
  | .jmpInd _ => 5
  | .jsr _ => 6
  | .rts => 6
  | .bcc _ => 2
  | .bcs _ => 2
  | .beq _ => 2
  | .bne _ => 2
  | .bmi _ => 2
  | .bpl _ => 2
  | .bvc _ => 2
  | .bvs _ => 2
  | .brk => 7
  | .rti => 6
  | .nop => 2
  | .clc => 2
  | .sec => 2
  | .cli => 2
  | .sei => 2
  | .cld => 2
  | .sed => 2
  | .clv => 2

/-- Whether the row carries the page-cross penalty (30_encoding R305, 40_addressing_load_store R402): the read class in the
indexed modes that can cross. -/
def Instr.penalty (i : Instr) : Bool :=
  match i.mnemonic, i.mode with
  | .lda, m | .ldx, m | .ldy, m | .adc, m | .and, m | .cmp, m | .eor, m | .ora, m | .sbc, m =>
    m == .absoluteX || m == .absoluteY || m == .indirectIndexedY
  | _, _ => false

/-- The length in bytes of an instruction (30_encoding R301). -/
def Instr.length (i : Instr) : Nat := i.mode.length

/-- The operand field of an instruction as a number: `op8`, or `{hi, lo}` (30_encoding R301); 0 where there is none. -/
def Instr.operand : Instr → Nat
  | .ldaIzx z => z.toNat
  | .ldaZp z => z.toNat
  | .ldaImm v => v.toNat
  | .ldaAbs a => a.toNat
  | .ldaIzy z => z.toNat
  | .ldaZpx z => z.toNat
  | .ldaAby a => a.toNat
  | .ldaAbx a => a.toNat
  | .ldxImm v => v.toNat
  | .ldxZp z => z.toNat
  | .ldxAbs a => a.toNat
  | .ldxZpy z => z.toNat
  | .ldxAby a => a.toNat
  | .ldyImm v => v.toNat
  | .ldyZp z => z.toNat
  | .ldyAbs a => a.toNat
  | .ldyZpx z => z.toNat
  | .ldyAbx a => a.toNat
  | .staIzx z => z.toNat
  | .staZp z => z.toNat
  | .staAbs a => a.toNat
  | .staIzy z => z.toNat
  | .staZpx z => z.toNat
  | .staAby a => a.toNat
  | .staAbx a => a.toNat
  | .stxZp z => z.toNat
  | .stxAbs a => a.toNat
  | .stxZpy z => z.toNat
  | .styZp z => z.toNat
  | .styAbs a => a.toNat
  | .styZpx z => z.toNat
  | .tax => 0
  | .tay => 0
  | .txa => 0
  | .tya => 0
  | .tsx => 0
  | .txs => 0
  | .pha => 0
  | .php => 0
  | .pla => 0
  | .plp => 0
  | .andIzx z => z.toNat
  | .andZp z => z.toNat
  | .andImm v => v.toNat
  | .andAbs a => a.toNat
  | .andIzy z => z.toNat
  | .andZpx z => z.toNat
  | .andAby a => a.toNat
  | .andAbx a => a.toNat
  | .oraIzx z => z.toNat
  | .oraZp z => z.toNat
  | .oraImm v => v.toNat
  | .oraAbs a => a.toNat
  | .oraIzy z => z.toNat
  | .oraZpx z => z.toNat
  | .oraAby a => a.toNat
  | .oraAbx a => a.toNat
  | .eorIzx z => z.toNat
  | .eorZp z => z.toNat
  | .eorImm v => v.toNat
  | .eorAbs a => a.toNat
  | .eorIzy z => z.toNat
  | .eorZpx z => z.toNat
  | .eorAby a => a.toNat
  | .eorAbx a => a.toNat
  | .bitZp z => z.toNat
  | .bitAbs a => a.toNat
  | .adcIzx z => z.toNat
  | .adcZp z => z.toNat
  | .adcImm v => v.toNat
  | .adcAbs a => a.toNat
  | .adcIzy z => z.toNat
  | .adcZpx z => z.toNat
  | .adcAby a => a.toNat
  | .adcAbx a => a.toNat
  | .sbcIzx z => z.toNat
  | .sbcZp z => z.toNat
  | .sbcImm v => v.toNat
  | .sbcAbs a => a.toNat
  | .sbcIzy z => z.toNat
  | .sbcZpx z => z.toNat
  | .sbcAby a => a.toNat
  | .sbcAbx a => a.toNat
  | .cmpIzx z => z.toNat
  | .cmpZp z => z.toNat
  | .cmpImm v => v.toNat
  | .cmpAbs a => a.toNat
  | .cmpIzy z => z.toNat
  | .cmpZpx z => z.toNat
  | .cmpAby a => a.toNat
  | .cmpAbx a => a.toNat
  | .cpxImm v => v.toNat
  | .cpxZp z => z.toNat
  | .cpxAbs a => a.toNat
  | .cpyImm v => v.toNat
  | .cpyZp z => z.toNat
  | .cpyAbs a => a.toNat
  | .incZp z => z.toNat
  | .incAbs a => a.toNat
  | .incZpx z => z.toNat
  | .incAbx a => a.toNat
  | .decZp z => z.toNat
  | .decAbs a => a.toNat
  | .decZpx z => z.toNat
  | .decAbx a => a.toNat
  | .inx => 0
  | .iny => 0
  | .dex => 0
  | .dey => 0
  | .aslZp z => z.toNat
  | .aslAcc => 0
  | .aslAbs a => a.toNat
  | .aslZpx z => z.toNat
  | .aslAbx a => a.toNat
  | .lsrZp z => z.toNat
  | .lsrAcc => 0
  | .lsrAbs a => a.toNat
  | .lsrZpx z => z.toNat
  | .lsrAbx a => a.toNat
  | .rolZp z => z.toNat
  | .rolAcc => 0
  | .rolAbs a => a.toNat
  | .rolZpx z => z.toNat
  | .rolAbx a => a.toNat
  | .rorZp z => z.toNat
  | .rorAcc => 0
  | .rorAbs a => a.toNat
  | .rorZpx z => z.toNat
  | .rorAbx a => a.toNat
  | .jmpAbs a => a.toNat
  | .jmpInd a => a.toNat
  | .jsr a => a.toNat
  | .rts => 0
  | .bcc d => d.toNat
  | .bcs d => d.toNat
  | .beq d => d.toNat
  | .bne d => d.toNat
  | .bmi d => d.toNat
  | .bpl d => d.toNat
  | .bvc d => d.toNat
  | .bvs d => d.toNat
  | .brk => 0
  | .rti => 0
  | .nop => 0
  | .clc => 0
  | .sec => 0
  | .cli => 0
  | .sei => 0
  | .cld => 0
  | .sed => 0
  | .clv => 0

end Sys2Proof
end

