-- ==== Sys2Proof/Config.lean ====
section
/-! DEFINITION. What is fixed for the machine: the parameters of 00_scope R6 and the cartridge image a host inserts
(20_memory R240). Parameters with an alternative in the spec keep both values; the constant says which one holds here. -/

namespace Sys2Proof

/-- MIXER (62_apu R1250, R1251). -/
inductive Mixer where
  | nonlinear
  | linear
deriving DecidableEq, Repr

/-- IRQ_TRIGGER (60_exceptions R1012). -/
inductive IrqTrigger where
  | level
  | edge
deriving DecidableEq, Repr

/-- RESET_KIND (10_state R119). -/
inductive ResetKind where
  | warm
  | cold
deriving DecidableEq, Repr

/-- Nametable mirroring of a cartridge (20_memory R240, R253). -/
inductive Mirroring where
  | horizontal
  | vertical
  | singleScreen
  | fourScreen
deriving DecidableEq, Repr

namespace Config

/-- MIXER = nonlinear (R6, D23). -/
def mixer : Mixer := .nonlinear
/-- IRQ_TRIGGER = level (R6, D7). -/
def irqTrigger : IrqTrigger := .level
/-- RESET_KIND = warm (R6, D13). -/
def resetKind : ResetKind := .warm
/-- NMI_ON_CTRL_ENABLE = true (R6, D6). -/
def nmiOnCtrlEnable : Bool := true
/-- CPU_CLOCK_HZ, used only by the sample drain (R6, D25). -/
def cpuClockHz : Nat := 1789773
/-- OAM_DMA_STALL without the alignment cycle (R6, D18). -/
def oamDmaStall : Nat := 513
/-- DMC_FETCH_STALL (R6, D19). -/
def dmcFetchStall : Nat := 4
/-- The version number every save-state record carries. DESIGN CHOICE (log 16): R1315 asks for a number and names none. -/
def saveVersion : Nat := 1

end Config

/-- The parsed header fields and ROM buffers a host inserts (20_memory R240). -/
structure CartImage where
  mapperNumber : Nat
  /-- 16 KiB PRG ROM banks. -/
  prgBanks : Nat
  /-- 8 KiB CHR ROM banks; 0 means CHR RAM. -/
  chrBanks : Nat
  mirroring : Mirroring
  battery : Bool
  prg : Mem
  chr : Mem
deriving DecidableEq, Repr

/-- The blank image State.reset holds. DESIGN CHOICE (log 1): the spec's machine has a cartridge, and no rule says which. -/
def CartImage.blank : CartImage :=
  { mapperNumber := 0, prgBanks := 1, chrBanks := 1, mirroring := .horizontal, battery := false, prg := [], chr := [] }

end Sys2Proof
end

