-- ==== Sys2Proof/Machine/Mem.lean ====
section
/-! DEFINITION. Reading and writing the sparse tables that memories and pictures are held in, and their canonical form. -/

namespace Sys2Proof

/-- What key `i` holds; `d` is what an unlisted key reads as. -/
def Sparse.get {α : Type} (d : α) : Sparse α → Nat → α
  | [], _ => d
  | (k, v) :: m, i => if i < k then d else if i = k then v else Sparse.get d m i

/-- Put `v` at key `i`, keeping keys rising; putting `d` removes the entry. -/
def Sparse.put {α : Type} [DecidableEq α] (d : α) : Sparse α → Nat → α → Sparse α
  | [], i, v => if v = d then [] else [(i, v)]
  | (k, w) :: m, i, v =>
    if i < k then (if v = d then (k, w) :: m else (i, v) :: (k, w) :: m)
    else if i = k then (if v = d then m else (i, v) :: m)
    else (k, w) :: Sparse.put d m i v

/-- The canonical form from key `lo` on: keys at least `lo` and below `n`, strictly rising, each entry passing `ok`. -/
def Sparse.wfFrom {α : Type} (ok : α → Bool) (n : Nat) : Nat → Sparse α → Bool
  | _, [] => true
  | lo, (k, v) :: m => decide (lo ≤ k) && decide (k < n) && ok v && Sparse.wfFrom ok n (k + 1) m

/-- The byte at an address of a memory. -/
def Mem.read (m : Mem) (i : Nat) : Byte := Sparse.get 0 m i

/-- Store a byte in a memory. -/
def Mem.write (m : Mem) (i : Nat) (v : Byte) : Mem := Sparse.put 0 m i v

/-- The canonical form of a memory of `n` bytes: addresses below `n`, strictly rising, no entry 0. -/
def Mem.wf (n : Nat) (m : Mem) : Bool := Sparse.wfFrom (fun v => v != 0) n 0 m

/-- The canonical form of a memory of `n` colour indices: as `Mem.wf`, and each entry has 6 bits (20_memory R255). -/
def Mem.wf6 (n : Nat) (m : Mem) : Bool := Sparse.wfFrom (fun v => v != 0 && decide (v.toNat < 64)) n 0 m

/-- The colour index at column `x`, row `y` (61_ppu R1146). -/
def Frame.read (f : Frame) (x y : Nat) : Byte := Mem.read (Sparse.get [] f y) x

/-- Store a colour index at column `x`, row `y` (61_ppu R1146). -/
def Frame.write (f : Frame) (x y : Nat) (c : Byte) : Frame :=
  Sparse.put [] f y (Mem.write (Sparse.get [] f y) x c)

/-- The canonical form of a picture of 240 rows of 256 colour indices: no empty row. -/
def Frame.wf (f : Frame) : Bool := Sparse.wfFrom (fun row => row != [] && Mem.wf6 256 row) 240 0 f

end Sys2Proof
end

