-- ==== Sys2Proof/WellFormed.lean ====
section
/-! DEFINITION. Well-formedness of what comes from outside the machine: an instruction's operand and an inserted cartridge image. -/

namespace Sys2Proof

/-- The operand fits the field its format gives it (30_encoding R301). The constructors' operand types have exactly that width,
so every instruction passes. -/
def Instr.wellFormed (i : Instr) : Bool := decide (i.operand < 2 ^ (8 * (i.length - 1)))

/-- A cartridge image as 20_memory R240 describes it: at least one PRG bank, and ROM buffers of the size the bank counts give. -/
def CartImage.wellFormed (c : CartImage) : Bool :=
  decide (1 ≤ c.prgBanks) && Mem.wf (16384 * c.prgBanks) c.prg && Mem.wf (8192 * c.chrBanks) c.chr

end Sys2Proof
end

