-- ==== Sys2Proof/Decode.lean ====
section
/-! DEFINITION. The decoder, total on any bytes and rejecting by name, and the encoder, both written from the opcode map of
30_encoding R305 and the formats of R301. -/

namespace Sys2Proof

/-- What an opcode byte selects: the instruction itself (format F1), or the instruction its operand byte (F2) or its
little-endian operand word (F3) completes (30_encoding R300, R301). -/
inductive Form where
  | one (i : Instr)
  | two (mk : Byte → Instr)
  | three (mk : Word → Instr)

/-- Row `hi` of the opcode map (30_encoding R305), column by column; `none` is an unassigned byte (R306). -/
def opcodeRow : Nat → List (Option Form)
  | 0x0 =>
    [some (.one .brk), some (.two .oraIzx), none, none, none, some (.two .oraZp), some (.two .aslZp), none,
     some (.one .php), some (.two .oraImm), some (.one .aslAcc), none, none, some (.three .oraAbs), some (.three .aslAbs), none]
  | 0x1 =>
    [some (.two .bpl), some (.two .oraIzy), none, none, none, some (.two .oraZpx), some (.two .aslZpx), none,
     some (.one .clc), some (.three .oraAby), none, none, none, some (.three .oraAbx), some (.three .aslAbx), none]
  | 0x2 =>
    [some (.three .jsr), some (.two .andIzx), none, none, some (.two .bitZp), some (.two .andZp), some (.two .rolZp), none,
     some (.one .plp), some (.two .andImm), some (.one .rolAcc), none, some (.three .bitAbs), some (.three .andAbs), some (.three .rolAbs), none]
  | 0x3 =>
    [some (.two .bmi), some (.two .andIzy), none, none, none, some (.two .andZpx), some (.two .rolZpx), none,
     some (.one .sec), some (.three .andAby), none, none, none, some (.three .andAbx), some (.three .rolAbx), none]
  | 0x4 =>
    [some (.one .rti), some (.two .eorIzx), none, none, none, some (.two .eorZp), some (.two .lsrZp), none,
     some (.one .pha), some (.two .eorImm), some (.one .lsrAcc), none, some (.three .jmpAbs), some (.three .eorAbs), some (.three .lsrAbs), none]
  | 0x5 =>
    [some (.two .bvc), some (.two .eorIzy), none, none, none, some (.two .eorZpx), some (.two .lsrZpx), none,
     some (.one .cli), some (.three .eorAby), none, none, none, some (.three .eorAbx), some (.three .lsrAbx), none]
  | 0x6 =>
    [some (.one .rts), some (.two .adcIzx), none, none, none, some (.two .adcZp), some (.two .rorZp), none,
     some (.one .pla), some (.two .adcImm), some (.one .rorAcc), none, some (.three .jmpInd), some (.three .adcAbs), some (.three .rorAbs), none]
  | 0x7 =>
    [some (.two .bvs), some (.two .adcIzy), none, none, none, some (.two .adcZpx), some (.two .rorZpx), none,
     some (.one .sei), some (.three .adcAby), none, none, none, some (.three .adcAbx), some (.three .rorAbx), none]
  | 0x8 =>
    [none, some (.two .staIzx), none, none, some (.two .styZp), some (.two .staZp), some (.two .stxZp), none,
     some (.one .dey), none, some (.one .txa), none, some (.three .styAbs), some (.three .staAbs), some (.three .stxAbs), none]
  | 0x9 =>
    [some (.two .bcc), some (.two .staIzy), none, none, some (.two .styZpx), some (.two .staZpx), some (.two .stxZpy), none,
     some (.one .tya), some (.three .staAby), some (.one .txs), none, none, some (.three .staAbx), none, none]
  | 0xA =>
    [some (.two .ldyImm), some (.two .ldaIzx), some (.two .ldxImm), none, some (.two .ldyZp), some (.two .ldaZp), some (.two .ldxZp), none,
     some (.one .tay), some (.two .ldaImm), some (.one .tax), none, some (.three .ldyAbs), some (.three .ldaAbs), some (.three .ldxAbs), none]
  | 0xB =>
    [some (.two .bcs), some (.two .ldaIzy), none, none, some (.two .ldyZpx), some (.two .ldaZpx), some (.two .ldxZpy), none,
     some (.one .clv), some (.three .ldaAby), some (.one .tsx), none, some (.three .ldyAbx), some (.three .ldaAbx), some (.three .ldxAby), none]
  | 0xC =>
    [some (.two .cpyImm), some (.two .cmpIzx), none, none, some (.two .cpyZp), some (.two .cmpZp), some (.two .decZp), none,
     some (.one .iny), some (.two .cmpImm), some (.one .dex), none, some (.three .cpyAbs), some (.three .cmpAbs), some (.three .decAbs), none]
  | 0xD =>
    [some (.two .bne), some (.two .cmpIzy), none, none, none, some (.two .cmpZpx), some (.two .decZpx), none,
     some (.one .cld), some (.three .cmpAby), none, none, none, some (.three .cmpAbx), some (.three .decAbx), none]
  | 0xE =>
    [some (.two .cpxImm), some (.two .sbcIzx), none, none, some (.two .cpxZp), some (.two .sbcZp), some (.two .incZp), none,
     some (.one .inx), some (.two .sbcImm), some (.one .nop), none, some (.three .cpxAbs), some (.three .sbcAbs), some (.three .incAbs), none]
  | 0xF =>
    [some (.two .beq), some (.two .sbcIzy), none, none, none, some (.two .sbcZpx), some (.two .incZpx), none,
     some (.one .sed), some (.three .sbcAby), none, none, none, some (.three .sbcAbx), some (.three .incAbx), none]
  | _ => []

/-- What the opcode byte selects, or nothing for the 105 unassigned bytes (30_encoding R305, R306). -/
def form (op : Byte) : Option Form :=
  (opcodeRow (op.toNat / 16)).getD (op.toNat % 16) none

/-- Why bytes do not decode. -/
inductive DecodeError where
  /-- The first byte is one of the 105 unassigned bytes (30_encoding R306). -/
  | unimplementedOpcode (op : Byte)
  /-- The bytes end before the instruction does. -/
  | truncated
deriving DecidableEq, Repr

/-- Decode the instruction at the head of a list of bytes, and answer the bytes after it (30_encoding R301, R305). -/
def decode : List Byte → Except DecodeError (Instr × List Byte)
  | [] => .error .truncated
  | op :: rest =>
    match form op, rest with
    | none, _ => .error (.unimplementedOpcode op)
    | some (.one i), rest => .ok (i, rest)
    | some (.two mk), b :: rest => .ok (mk b, rest)
    | some (.three mk), lo :: hi :: rest => .ok (mk (hi ++ lo), rest)
    | some _, _ => .error .truncated

/-- The bytes of an instruction, opcode first, an address low byte first (30_encoding R301, R305). -/
def encode : Instr → List Byte
  | .ldaIzx z => [0xA1, z]
  | .ldaZp z => [0xA5, z]
  | .ldaImm v => [0xA9, v]
  | .ldaAbs a => [0xAD, a.extractLsb' 0 8, a.extractLsb' 8 8]
  | .ldaIzy z => [0xB1, z]
  | .ldaZpx z => [0xB5, z]
  | .ldaAby a => [0xB9, a.extractLsb' 0 8, a.extractLsb' 8 8]
  | .ldaAbx a => [0xBD, a.extractLsb' 0 8, a.extractLsb' 8 8]
  | .ldxImm v => [0xA2, v]
  | .ldxZp z => [0xA6, z]
  | .ldxAbs a => [0xAE, a.extractLsb' 0 8, a.extractLsb' 8 8]
  | .ldxZpy z => [0xB6, z]
  | .ldxAby a => [0xBE, a.extractLsb' 0 8, a.extractLsb' 8 8]
  | .ldyImm v => [0xA0, v]
  | .ldyZp z => [0xA4, z]
  | .ldyAbs a => [0xAC, a.extractLsb' 0 8, a.extractLsb' 8 8]
  | .ldyZpx z => [0xB4, z]
  | .ldyAbx a => [0xBC, a.extractLsb' 0 8, a.extractLsb' 8 8]
  | .staIzx z => [0x81, z]
  | .staZp z => [0x85, z]
  | .staAbs a => [0x8D, a.extractLsb' 0 8, a.extractLsb' 8 8]
  | .staIzy z => [0x91, z]
  | .staZpx z => [0x95, z]
  | .staAby a => [0x99, a.extractLsb' 0 8, a.extractLsb' 8 8]
  | .staAbx a => [0x9D, a.extractLsb' 0 8, a.extractLsb' 8 8]
  | .stxZp z => [0x86, z]
  | .stxAbs a => [0x8E, a.extractLsb' 0 8, a.extractLsb' 8 8]
  | .stxZpy z => [0x96, z]
  | .styZp z => [0x84, z]
  | .styAbs a => [0x8C, a.extractLsb' 0 8, a.extractLsb' 8 8]
  | .styZpx z => [0x94, z]
  | .tax => [0xAA]
  | .tay => [0xA8]
  | .txa => [0x8A]
  | .tya => [0x98]
  | .tsx => [0xBA]
  | .txs => [0x9A]
  | .pha => [0x48]
  | .php => [0x08]
  | .pla => [0x68]
  | .plp => [0x28]
  | .andIzx z => [0x21, z]
  | .andZp z => [0x25, z]
  | .andImm v => [0x29, v]
  | .andAbs a => [0x2D, a.extractLsb' 0 8, a.extractLsb' 8 8]
  | .andIzy z => [0x31, z]
  | .andZpx z => [0x35, z]
  | .andAby a => [0x39, a.extractLsb' 0 8, a.extractLsb' 8 8]
  | .andAbx a => [0x3D, a.extractLsb' 0 8, a.extractLsb' 8 8]
  | .oraIzx z => [0x01, z]
  | .oraZp z => [0x05, z]
  | .oraImm v => [0x09, v]
  | .oraAbs a => [0x0D, a.extractLsb' 0 8, a.extractLsb' 8 8]
  | .oraIzy z => [0x11, z]
  | .oraZpx z => [0x15, z]
  | .oraAby a => [0x19, a.extractLsb' 0 8, a.extractLsb' 8 8]
  | .oraAbx a => [0x1D, a.extractLsb' 0 8, a.extractLsb' 8 8]
  | .eorIzx z => [0x41, z]
  | .eorZp z => [0x45, z]
  | .eorImm v => [0x49, v]
  | .eorAbs a => [0x4D, a.extractLsb' 0 8, a.extractLsb' 8 8]
  | .eorIzy z => [0x51, z]
  | .eorZpx z => [0x55, z]
  | .eorAby a => [0x59, a.extractLsb' 0 8, a.extractLsb' 8 8]
  | .eorAbx a => [0x5D, a.extractLsb' 0 8, a.extractLsb' 8 8]
  | .bitZp z => [0x24, z]
  | .bitAbs a => [0x2C, a.extractLsb' 0 8, a.extractLsb' 8 8]
  | .adcIzx z => [0x61, z]
  | .adcZp z => [0x65, z]
  | .adcImm v => [0x69, v]
  | .adcAbs a => [0x6D, a.extractLsb' 0 8, a.extractLsb' 8 8]
  | .adcIzy z => [0x71, z]
  | .adcZpx z => [0x75, z]
  | .adcAby a => [0x79, a.extractLsb' 0 8, a.extractLsb' 8 8]
  | .adcAbx a => [0x7D, a.extractLsb' 0 8, a.extractLsb' 8 8]
  | .sbcIzx z => [0xE1, z]
  | .sbcZp z => [0xE5, z]
  | .sbcImm v => [0xE9, v]
  | .sbcAbs a => [0xED, a.extractLsb' 0 8, a.extractLsb' 8 8]
  | .sbcIzy z => [0xF1, z]
  | .sbcZpx z => [0xF5, z]
  | .sbcAby a => [0xF9, a.extractLsb' 0 8, a.extractLsb' 8 8]
  | .sbcAbx a => [0xFD, a.extractLsb' 0 8, a.extractLsb' 8 8]
  | .cmpIzx z => [0xC1, z]
  | .cmpZp z => [0xC5, z]
  | .cmpImm v => [0xC9, v]
  | .cmpAbs a => [0xCD, a.extractLsb' 0 8, a.extractLsb' 8 8]
  | .cmpIzy z => [0xD1, z]
  | .cmpZpx z => [0xD5, z]
  | .cmpAby a => [0xD9, a.extractLsb' 0 8, a.extractLsb' 8 8]
  | .cmpAbx a => [0xDD, a.extractLsb' 0 8, a.extractLsb' 8 8]
  | .cpxImm v => [0xE0, v]
  | .cpxZp z => [0xE4, z]
  | .cpxAbs a => [0xEC, a.extractLsb' 0 8, a.extractLsb' 8 8]
  | .cpyImm v => [0xC0, v]
  | .cpyZp z => [0xC4, z]
  | .cpyAbs a => [0xCC, a.extractLsb' 0 8, a.extractLsb' 8 8]
  | .incZp z => [0xE6, z]
  | .incAbs a => [0xEE, a.extractLsb' 0 8, a.extractLsb' 8 8]
  | .incZpx z => [0xF6, z]
  | .incAbx a => [0xFE, a.extractLsb' 0 8, a.extractLsb' 8 8]
  | .decZp z => [0xC6, z]
  | .decAbs a => [0xCE, a.extractLsb' 0 8, a.extractLsb' 8 8]
  | .decZpx z => [0xD6, z]
  | .decAbx a => [0xDE, a.extractLsb' 0 8, a.extractLsb' 8 8]
  | .inx => [0xE8]
  | .iny => [0xC8]
  | .dex => [0xCA]
  | .dey => [0x88]
  | .aslZp z => [0x06, z]
  | .aslAcc => [0x0A]
  | .aslAbs a => [0x0E, a.extractLsb' 0 8, a.extractLsb' 8 8]
  | .aslZpx z => [0x16, z]
  | .aslAbx a => [0x1E, a.extractLsb' 0 8, a.extractLsb' 8 8]
  | .lsrZp z => [0x46, z]
  | .lsrAcc => [0x4A]
  | .lsrAbs a => [0x4E, a.extractLsb' 0 8, a.extractLsb' 8 8]
  | .lsrZpx z => [0x56, z]
  | .lsrAbx a => [0x5E, a.extractLsb' 0 8, a.extractLsb' 8 8]
  | .rolZp z => [0x26, z]
  | .rolAcc => [0x2A]
  | .rolAbs a => [0x2E, a.extractLsb' 0 8, a.extractLsb' 8 8]
  | .rolZpx z => [0x36, z]
  | .rolAbx a => [0x3E, a.extractLsb' 0 8, a.extractLsb' 8 8]
  | .rorZp z => [0x66, z]
  | .rorAcc => [0x6A]
  | .rorAbs a => [0x6E, a.extractLsb' 0 8, a.extractLsb' 8 8]
  | .rorZpx z => [0x76, z]
  | .rorAbx a => [0x7E, a.extractLsb' 0 8, a.extractLsb' 8 8]
  | .jmpAbs a => [0x4C, a.extractLsb' 0 8, a.extractLsb' 8 8]
  | .jmpInd a => [0x6C, a.extractLsb' 0 8, a.extractLsb' 8 8]
  | .jsr a => [0x20, a.extractLsb' 0 8, a.extractLsb' 8 8]
  | .rts => [0x60]
  | .bcc d => [0x90, d]
  | .bcs d => [0xB0, d]
  | .beq d => [0xF0, d]
  | .bne d => [0xD0, d]
  | .bmi d => [0x30, d]
  | .bpl d => [0x10, d]
  | .bvc d => [0x50, d]
  | .bvs d => [0x70, d]
  | .brk => [0x00]
  | .rti => [0x40]
  | .nop => [0xEA]
  | .clc => [0x18]
  | .sec => [0x38]
  | .cli => [0x58]
  | .sei => [0x78]
  | .cld => [0xD8]
  | .sed => [0xF8]
  | .clv => [0xB8]

/-- Byte `k` of a word numbered as spec/opcode_table.json numbers its bits: bits 8k+7..8k. -/
def tableByte (w k : Nat) : Byte := BitVec.ofNat 8 (w >>> (8 * k))

/-- The instruction the decoder reads from the word `w` of an opcode-table row of `nbits` bits: its bytes in order, then zeros
up to the longest instruction. -/
def decodeTableWord (nbits w : Nat) : Option Instr :=
  let v := w % 2 ^ nbits
  match decode [tableByte v 0, tableByte v 1, tableByte v 2] with
  | .ok (i, _) => some i
  | .error _ => none

end Sys2Proof
end

