-- ==== Sys2Proof/Machine/Bits.lean ====
section
/-! DEFINITION. Bit-field, extension and byte-order helpers (00_scope R7, R8, R11). -/

namespace Sys2Proof

/-- `zext_16` (R8). -/
def zext16 (v : Byte) : Word := v.setWidth 16

/-- `sext_16` (R8). -/
def sext16 (v : Byte) : Word := v.signExtend 16

/-- `{h, l}` (R7). -/
def mkWord (h l : Byte) : Word := h ++ l

/-- `w[15:8]` (R7). -/
def hiByte (w : Word) : Byte := w.extractLsb' 8 8

/-- `w[7:0]` (R7). -/
def loByte (w : Word) : Byte := w.extractLsb' 0 8

/-- `PageCross(a, b)` (R11). -/
def pageCross (a b : Word) : Bool := hiByte a != hiByte b

/-- Bit `k` of a byte set to `b`, the others kept. -/
def putBit (v : Byte) (k : Nat) (b : Bool) : Byte :=
  if b then v ||| (1#8 <<< k) else v &&& ~~~(1#8 <<< k)

/-- A byte holding `b` at bit `k` and 0 elsewhere. -/
def bitAt (k : Nat) (b : Bool) : Byte := if b then 1#8 <<< k else 0#8

/-- `Reverse8`: bits 7..0 mirrored (61_ppu R1141). -/
def reverse8 (v : Byte) : Byte := v.reverse

end Sys2Proof
end

