-- ==== Sys2Proof/Machine/State.lean ====
section
/-! DEFINITION. The machine state of 10_state R116 (one record per component), the host's side of the boundary, the ways a
step can stop, and the state right after reset (10_state R118, 61_ppu R1100, 62_apu R1200, 20_memory R247, R270). -/

namespace Sys2Proof.Machine

/-- The CPU register file and the interpreter fields (10_state R100 to R114). -/
structure Cpu where
  a : Byte
  x : Byte
  y : Byte
  s : Byte
  /-- P: bits N V U B D I Z C from 7 to 0 (R106). -/
  p : Byte
  pc : Word
  /-- Opcode byte of the instruction being or last executed (R114). -/
  opcode : Byte
  /-- EA of the current or last memory-operand instruction (R114). -/
  ea : Word
  modeExtra : Nat
  insnExtra : Nat
  /-- The local variable `cycles` of `step()` (60_exceptions R1001); after a step, the value it returned (log 4). -/
  cycles : Nat
  totalCycles : Nat
  stallCycles : Nat
  nmiPending : Bool
  /-- The latch of IRQ_TRIGGER = edge (R1012); never set under level (log 9). -/
  irqLatch : Bool
deriving DecidableEq, Repr

/-- Secondary slot s of the sprite buffer: `sprX[s]`, `sprAttr[s]`, `sprLo[s]`, `sprHi[s]` (61_ppu R1100). -/
structure SpriteSlot where
  x : Byte
  attr : Byte
  lo : Byte
  hi : Byte
deriving DecidableEq, Repr

/-- The PPU state (61_ppu R1100). -/
structure Ppu where
  ctrl : Byte
  mask : Byte
  vblank : Bool
  sprite0Hit : Bool
  spriteOverflow : Bool
  oamAddr : Byte
  oam : Mem
  vaddr : BitVec 15
  taddr : BitVec 15
  fineX : BitVec 3
  w : Bool
  readBuffer : Byte
  dot : Nat
  scanline : Nat
  oddFrame : Bool
  palette : Mem
  ntByte : Byte
  atBits : BitVec 2
  ptLo : Byte
  ptHi : Byte
  bgShiftLo : Word
  bgShiftHi : Word
  atShiftLo : Word
  atShiftHi : Word
  sprCount : Nat
  sprZeroInLine : Bool
  slots : Vector SpriteSlot 8
  framebuffer : Frame
deriving DecidableEq, Repr

/-- An envelope unit (62_apu R1200, R1215). -/
structure Envelope where
  start : Bool
  divider : BitVec 4
  decay : BitVec 4
deriving DecidableEq, Repr

/-- A pulse channel with its sweep unit (62_apu R1200). -/
structure Pulse where
  enabled : Bool
  duty : BitVec 2
  halt : Bool
  constVol : Bool
  volume : BitVec 4
  timer : BitVec 11
  timerCounter : BitVec 11
  step : BitVec 3
  length : Byte
  env : Envelope
  swEnabled : Bool
  swNegate : Bool
  swReload : Bool
  swPeriod : BitVec 3
  swShift : BitVec 3
  swDivider : BitVec 3
deriving DecidableEq, Repr

/-- The triangle channel (62_apu R1200). -/
structure Triangle where
  enabled : Bool
  control : Bool
  linReloadValue : BitVec 7
  linear : BitVec 7
  linReload : Bool
  timer : BitVec 11
  timerCounter : BitVec 11
  step : BitVec 5
  length : Byte
deriving DecidableEq, Repr

/-- The noise channel (62_apu R1200). -/
structure Noise where
  enabled : Bool
  halt : Bool
  constVol : Bool
  mode : Bool
  volume : BitVec 4
  periodIdx : BitVec 4
  timerCounter : BitVec 12
  lfsr : BitVec 15
  length : Byte
  env : Envelope
deriving DecidableEq, Repr

/-- The delta-modulation channel (62_apu R1200). -/
structure Dmc where
  irqEnable : Bool
  loop : Bool
  rateIdx : BitVec 4
  timerCounter : BitVec 9
  sampleAddrReg : Byte
  sampleLengthReg : Byte
  currentAddr : Word
  bytesRemaining : BitVec 12
  sampleBuffer : Byte
  bufferEmpty : Bool
  shiftReg : Byte
  bitsRemaining : Nat
  level : BitVec 7
  silence : Bool
deriving DecidableEq, Repr

/-- The sample accumulator (62_apu R1200, R1252); the spec's reals are exact rationals (log 14). -/
structure AudioOut where
  boxSum : Rat
  boxCount : Nat
  phase : Rat
  ready : List Rat
deriving DecidableEq, Repr

/-- The APU state (62_apu R1200). -/
structure Apu where
  cpuPhase : Bool
  frameCycle : Nat
  /-- false = 4-step, true = 5-step. -/
  seqMode : Bool
  irqInhibit : Bool
  frameIrq : Bool
  dmcIrq : Bool
  pulse1 : Pulse
  pulse2 : Pulse
  triangle : Triangle
  noise : Noise
  dmc : Dmc
  out : AudioOut
deriving DecidableEq, Repr

/-- The mapper variants, a closed tagged set, each with its own bank-select state (20_memory R242 to R245). -/
inductive Mapper where
  | nrom
  | uxrom (prgBank : Byte)
  | cnrom (chrBank : Byte)
deriving DecidableEq, Repr

/-- The cartridge: its image's fields, immutable after insertion, and its mutable RAM and mapper state (20_memory R240, R241). -/
structure Cart where
  mapper : Mapper
  prgBanks : Nat
  chrBanks : Nat
  mirroring : Mirroring
  battery : Bool
  prg : Mem
  chr : Mem
  prgRam : Mem
  chrRam : Mem
deriving DecidableEq, Repr

/-- The controller ports (20_memory R270). -/
structure Pads where
  strobe : Bool
  sr0 : Byte
  sr1 : Byte
deriving DecidableEq, Repr

/-- One controller's button snapshot (20_memory R270, R271). -/
structure Buttons where
  a : Bool
  b : Bool
  select : Bool
  start : Bool
  up : Bool
  down : Bool
  left : Bool
  right : Bool
deriving DecidableEq, Repr

/-- An entry of the diagnostic log (00_scope R12); no rule reads the log. -/
inductive LogEvent where
  | unmappedRead (addr : Nat)
  | unmappedWrite (addr : Nat) (v : Byte)
  | romWrite (addr : Nat) (v : Byte)
deriving DecidableEq, Repr

/-- The host's side of the boundary (70_reset_and_hazards R1310 to R1313): what it supplies and what it has been handed.
It is no part of the machine state of R116. -/
structure HostSide where
  buttons0 : Buttons
  buttons1 : Buttons
  /-- SAMPLE_RATE in Hz, once the host has given it (62_apu R1252). The spec leaves the parameter OPEN (00_scope R6) and gives it no
  type: a whole number of Hz is the model's DESIGN CHOICE (log 25). -/
  sampleRate : Option Nat
  stopRequested : Bool
  running : Bool
  /-- Framebuffers handed over by FrameReady, newest first (61_ppu R1148). -/
  frames : List Frame
  /-- The diagnostic log, newest first (log 12). -/
  log : List LogEvent
deriving DecidableEq, Repr

/-- Kind and information of a fatal condition (60_exceptions R1030). -/
inductive Fatal where
  | unimplementedOpcode (opcode : Byte) (pcInsn : Word)
  | unsupportedMapper (number : Nat)
deriving DecidableEq, Repr

/-- The machine state (10_state R116) and the host's side of it. -/
structure State where
  cpu : Cpu
  ppu : Ppu
  apu : Apu
  cart : Cart
  pads : Pads
  ram : Mem
  vram : Mem
  openBus : Byte
  fault : Option Fatal
  host : HostSide
deriving DecidableEq, Repr

/-- The ways a step of the machine stops (60_exceptions R1030). -/
inductive Fault where
  /-- Raised by `step` when the fetched opcode byte is one of the 105 unassigned bytes (R1031): the run ends in the state `s`,
  which has recorded the condition `r`. SAFE: the spec itself gives the machine no further step. -/
  | fatal (r : Fatal) (s : State)
  /-- Raised by `step` on a state that already holds a fault record `r`: "a faulted machine has no step" (R1001, R1030).
  SAFE: the spec gives that state no step. -/
  | halted (r : Fatal)
deriving DecidableEq, Repr

/-- The ways the model has no meaning for an instruction. -/
inductive Refusal where
  /-- Raised only by a refused arm of `exec`; no arm is refused. SAFE: nothing can be proved of a run that stops here. -/
  | notModelled (mnemonic : String)
deriving DecidableEq, Repr

namespace State

/-- The CPU at power-on (10_state R118). PC is `Read16(0xFFFC)` of the blank image (log 1). -/
def cpuReset : Cpu :=
  { a := 0x00, x := 0x00, y := 0x00, s := 0xFD, p := 0x24, pc := 0x0000, opcode := 0x00, ea := 0x0000, modeExtra := 0, insnExtra := 0
    cycles := 0, totalCycles := 7, stallCycles := 0, nmiPending := false, irqLatch := false }

/-- The PPU at power-on (61_ppu R1100). -/
def ppuReset : Ppu :=
  { ctrl := 0x00, mask := 0x00, vblank := false, sprite0Hit := false, spriteOverflow := false, oamAddr := 0x00, oam := []
    vaddr := 0, taddr := 0, fineX := 0, w := false, readBuffer := 0x00, dot := 0, scanline := 0, oddFrame := false, palette := []
    ntByte := 0, atBits := 0, ptLo := 0, ptHi := 0, bgShiftLo := 0, bgShiftHi := 0, atShiftLo := 0, atShiftHi := 0
    sprCount := 0, sprZeroInLine := false, slots := Vector.replicate 8 { x := 0, attr := 0, lo := 0, hi := 0 }, framebuffer := [] }

/-- An envelope at power-on (62_apu R1200). -/
def envReset : Envelope := { start := false, divider := 0, decay := 0 }

/-- A pulse channel at power-on (62_apu R1200). -/
def pulseReset : Pulse :=
  { enabled := false, duty := 0, halt := false, constVol := false, volume := 0, timer := 0, timerCounter := 0, step := 0, length := 0
    env := envReset, swEnabled := false, swNegate := false, swReload := false, swPeriod := 0, swShift := 0, swDivider := 0 }

/-- The APU at power-on (62_apu R1200, D57). -/
def apuReset : Apu :=
  { cpuPhase := false, frameCycle := 0, seqMode := false, irqInhibit := false, frameIrq := false, dmcIrq := false
    pulse1 := pulseReset, pulse2 := pulseReset
    triangle := { enabled := false, control := false, linReloadValue := 0, linear := 0, linReload := false, timer := 0
                  timerCounter := 0, step := 0, length := 0 }
    noise := { enabled := false, halt := false, constVol := false, mode := false, volume := 0, periodIdx := 0
               timerCounter := 0, lfsr := 1, length := 0, env := envReset }
    dmc := { irqEnable := false, loop := false, rateIdx := 0, timerCounter := 0, sampleAddrReg := 0, sampleLengthReg := 0
             currentAddr := 0xC000, bytesRemaining := 0, sampleBuffer := 0, bufferEmpty := true, shiftReg := 0
             bitsRemaining := 8, level := 0, silence := true }
    out := { boxSum := 0, boxCount := 0, phase := 0, ready := [] } }

/-- The blank cartridge inserted (20_memory R240, R241, R247; log 1). -/
def cartReset : Cart :=
  { mapper := .nrom, prgBanks := 1, chrBanks := 1, mirroring := .horizontal, battery := false, prg := [], chr := [], prgRam := [], chrRam := [] }

/-- A controller with nothing pressed (log 11). -/
def noButtons : Buttons :=
  { a := false, b := false, select := false, start := false, up := false, down := false, left := false, right := false }

/-- A host that has supplied nothing and been handed nothing (log 11). -/
def hostReset : HostSide :=
  { buttons0 := noButtons, buttons1 := noButtons, sampleRate := none, stopRequested := false, running := false, frames := [], log := [] }

/-- The machine right after power-on with the blank cartridge (70_reset_and_hazards R1300). -/
def reset : State :=
  { cpu := cpuReset, ppu := ppuReset, apu := apuReset, cart := cartReset, pads := { strobe := false, sr0 := 0, sr1 := 0 }
    ram := [], vram := [], openBus := 0x00, fault := none, host := hostReset }

end State

end Sys2Proof.Machine
end

