-- ==== Sys2Proof/Machine/ApuUnits.lean ====
section
/-! DEFINITION. The APU's channels and units that need nothing but their own state: tables, length counters, envelopes, sweeps,
the linear counter, the timers, the mixer and the sample accumulator (62_apu R1203 to R1252). -/

namespace Sys2Proof.Machine

/-- `LengthTable` (R1214). -/
def lengthTable (i : Nat) : Byte :=
  ([10, 254, 20, 2, 40, 4, 80, 6, 160, 8, 60, 10, 14, 12, 26, 14] ++
   [12, 16, 24, 18, 48, 20, 96, 22, 192, 24, 72, 26, 16, 28, 32, 30]).getD i 0

/-- `Duty[duty][step]` (R1219). -/
def dutyBit (duty step : Nat) : Bool :=
  match duty with
  | 0 => step == 1
  | 1 => step == 1 || step == 2
  | 2 => step == 1 || step == 2 || step == 3 || step == 4
  | _ => !(step == 1 || step == 2)

/-- `NoisePeriod` (R1231). -/
def noisePeriod (i : Nat) : BitVec 12 :=
  [2, 4, 8, 16, 32, 48, 64, 80, 101, 127, 190, 254, 381, 508, 1017, 2034].getD i 0

/-- `DmcRate` (R1240). -/
def dmcRate (i : Nat) : BitVec 9 :=
  [214, 190, 170, 160, 143, 127, 113, 107, 95, 80, 71, 64, 53, 42, 36, 27].getD i 0

/-- `TriSeq` (R1224): 15 down to 0, then 0 up to 15. -/
def triSeq (step : Nat) : Nat := if step < 16 then 15 - step else step - 16

/-- A length load, made only while the channel is enabled (R1206, R1208, R1209, R1214). -/
def loadLength (enabled : Bool) (v length : Byte) : Byte := if enabled then lengthTable (v >>> 3).toNat else length

/-- The half-frame clock of a length counter (R1214). -/
def clockLength (halt : Bool) (length : Byte) : Byte := if length ≠ 0 ∧ halt = false then length - 1 else length

/-- `EnvelopeClock()` (R1215). -/
def clockEnvelope (halt : Bool) (volume : BitVec 4) (e : Envelope) : Envelope :=
  if e.start then { start := false, decay := 15, divider := volume }
  else if e.divider = 0 then
    { e with divider := volume, decay := if e.decay ≠ 0 then e.decay - 1 else if halt then 15 else e.decay }
  else { e with divider := e.divider - 1 }

/-- `EnvelopeOut()` (R1215). -/
def envelopeOut (constVol : Bool) (volume : BitVec 4) (e : Envelope) : Nat :=
  if constVol then volume.toNat else e.decay.toNat

/-- `Target(n)` (R1216): `one` says whether the channel is pulse 1, whose negation is one's complement. -/
def Pulse.target (one : Bool) (p : Pulse) : Int :=
  let t : Int := p.timer.toNat
  let d : Int := (p.timer.toNat >>> p.swShift.toNat : Nat)
  if p.swNegate then (if one then t - d - 1 else t - d) else t + d

/-- `Muted(n)` (R1216). -/
def Pulse.muted (one : Bool) (p : Pulse) : Bool := decide (p.timer.toNat < 8) || decide (0x7FF < p.target one)

/-- `SweepClock(n)` (R1216). -/
def Pulse.clockSweep (one : Bool) (p : Pulse) : Pulse :=
  let timer := if p.swDivider = 0 ∧ p.swEnabled = true ∧ p.swShift ≠ 0 ∧ p.muted one = false then BitVec.ofInt 11 (p.target one) else p.timer
  if p.swDivider = 0 ∨ p.swReload = true then { p with timer := timer, swDivider := p.swPeriod, swReload := false }
  else { p with timer := timer, swDivider := p.swDivider - 1 }

/-- `PulseTimer(n)` (R1218). -/
def Pulse.clockTimer (p : Pulse) : Pulse :=
  if p.timerCounter = 0 then { p with timerCounter := p.timer, step := p.step + 1 }
  else { p with timerCounter := p.timerCounter - 1 }

/-- `PulseOut(n)` (R1219). -/
def Pulse.output (one : Bool) (p : Pulse) : Nat :=
  if p.length = 0 ∨ p.muted one = true ∨ dutyBit p.duty.toNat p.step.toNat = false then 0
  else envelopeOut p.constVol p.volume p.env

/-- 0x4000 / 0x4004 (R1203). -/
def Pulse.writeControl (v : Byte) (p : Pulse) : Pulse :=
  { p with duty := v.extractLsb' 6 2, halt := v.getLsbD 5, constVol := v.getLsbD 4, volume := v.extractLsb' 0 4 }

/-- 0x4001 / 0x4005 (R1204). -/
def Pulse.writeSweep (v : Byte) (p : Pulse) : Pulse :=
  { p with swEnabled := v.getLsbD 7, swPeriod := v.extractLsb' 4 3, swNegate := v.getLsbD 3, swShift := v.extractLsb' 0 3, swReload := true }

/-- A timer's low eight bits written (R1205, R1208). -/
def timerLow (v : Byte) (t : BitVec 11) : BitVec 11 := (t &&& 0x700) ||| v.setWidth 11

/-- A timer's high three bits written (R1206, R1208). -/
def timerHigh (v : Byte) (t : BitVec 11) : BitVec 11 := (t &&& 0x0FF) ||| ((v &&& 0x07).setWidth 11 <<< 8)

/-- 0x4003 / 0x4007 (R1206). -/
def Pulse.writeHigh (v : Byte) (p : Pulse) : Pulse :=
  { p with timer := timerHigh v p.timer, length := loadLength p.enabled v p.length, step := 0, env := { p.env with start := true } }

/-- The channel's bit of a 0x4015 write (R1221). -/
def Pulse.enable (on : Bool) (p : Pulse) : Pulse := { p with enabled := on, length := if on then p.length else 0 }

/-- The quarter-frame clock of a pulse channel (R1210). -/
def Pulse.quarter (p : Pulse) : Pulse := { p with env := clockEnvelope p.halt p.volume p.env }

/-- The half-frame clock of a pulse channel (R1210). -/
def Pulse.half (one : Bool) (p : Pulse) : Pulse :=
  let q := p.clockSweep one
  { q with length := clockLength p.halt p.length }

/-- 0x4008 (R1207). -/
def Triangle.writeLinear (v : Byte) (t : Triangle) : Triangle :=
  { t with control := v.getLsbD 7, linReloadValue := v.extractLsb' 0 7 }

/-- 0x400B (R1208). -/
def Triangle.writeHigh (v : Byte) (t : Triangle) : Triangle :=
  { t with timer := timerHigh v t.timer, length := loadLength t.enabled v t.length, linReload := true }

/-- The channel's bit of a 0x4015 write (R1221). -/
def Triangle.enable (on : Bool) (t : Triangle) : Triangle := { t with enabled := on, length := if on then t.length else 0 }

/-- `LinearClock()` (R1223). -/
def Triangle.quarter (t : Triangle) : Triangle :=
  { t with
    linear := if t.linReload then t.linReloadValue else if t.linear ≠ 0 then t.linear - 1 else t.linear
    linReload := t.linReload && t.control }

/-- The half-frame clock of the triangle's length counter (R1210, R1214). -/
def Triangle.half (t : Triangle) : Triangle := { t with length := clockLength t.control t.length }

/-- `TriangleTimer()` (R1224). -/
def Triangle.clockTimer (t : Triangle) : Triangle :=
  if t.timerCounter = 0 then
    { t with timerCounter := t.timer, step := if t.length ≠ 0 ∧ t.linear ≠ 0 then t.step + 1 else t.step }
  else { t with timerCounter := t.timerCounter - 1 }

/-- `TriangleOut()` (R1224). R1214 says that a channel of length 0 outputs 0, R1224 that the stopped triangle holds its last
value: DEDUCED (log 21), the triangle's own rule is followed. -/
def Triangle.output (t : Triangle) : Nat := triSeq t.step.toNat

/-- 0x400C (R1209). -/
def Noise.writeControl (v : Byte) (n : Noise) : Noise :=
  { n with halt := v.getLsbD 5, constVol := v.getLsbD 4, volume := v.extractLsb' 0 4 }

/-- 0x400E (R1209). -/
def Noise.writePeriod (v : Byte) (n : Noise) : Noise := { n with mode := v.getLsbD 7, periodIdx := v.extractLsb' 0 4 }

/-- 0x400F (R1209). -/
def Noise.writeLength (v : Byte) (n : Noise) : Noise :=
  { n with length := loadLength n.enabled v n.length, env := { n.env with start := true } }

/-- The channel's bit of a 0x4015 write (R1221). -/
def Noise.enable (on : Bool) (n : Noise) : Noise := { n with enabled := on, length := if on then n.length else 0 }

/-- The quarter-frame clock of the noise channel (R1210). -/
def Noise.quarter (n : Noise) : Noise := { n with env := clockEnvelope n.halt n.volume n.env }

/-- The half-frame clock of the noise channel (R1210). -/
def Noise.half (n : Noise) : Noise := { n with length := clockLength n.halt n.length }

/-- The noise shifter's next value (R1230). -/
def lfsrNext (mode : Bool) (l : BitVec 15) : BitVec 15 :=
  let fb := l.getLsbD 0 ^^ (if mode then l.getLsbD 6 else l.getLsbD 1)
  (l >>> 1) ||| (if fb then 0x4000 else 0)

/-- `NoiseTimer()` (R1230). -/
def Noise.clockTimer (n : Noise) : Noise :=
  if n.timerCounter = 0 then { n with timerCounter := noisePeriod n.periodIdx.toNat, lfsr := lfsrNext n.mode n.lfsr }
  else { n with timerCounter := n.timerCounter - 1 }

/-- `NoiseOut()` (R1230). -/
def Noise.output (n : Noise) : Nat :=
  if n.length = 0 ∨ n.lfsr.getLsbD 0 = true then 0 else envelopeOut n.constVol n.volume n.env

/-- The output level after one output clock (R1238). -/
def dmcLevel (silence bit : Bool) (level : BitVec 7) : BitVec 7 :=
  if silence then level
  else if bit then (if level ≤ 125 then level + 2 else level)
  else (if 2 ≤ level then level - 2 else level)

/-- `DmcRestart()` (R1239). -/
def Dmc.restart (d : Dmc) : Dmc :=
  { d with
    currentAddr := 0xC000 + zext16 d.sampleAddrReg * 64
    bytesRemaining := d.sampleLengthReg.setWidth 12 * 16 + 1 }

/-- `QuarterFrame()` (R1210). -/
def Apu.quarterFrame (a : Apu) : Apu :=
  { a with pulse1 := a.pulse1.quarter, pulse2 := a.pulse2.quarter, triangle := a.triangle.quarter, noise := a.noise.quarter }

/-- `HalfFrame()` (R1210). -/
def Apu.halfFrame (a : Apu) : Apu :=
  { a with pulse1 := a.pulse1.half true, pulse2 := a.pulse2.half false, triangle := a.triangle.half, noise := a.noise.half }

/-- The pulse part of the mix (R1250). -/
def pulseMix (p : Nat) : Rat := if p = 0 then 0 else (9588 / 100) / (8128 / p + 100)

/-- `tndSum` (R1250). -/
def tndSum (t n d : Nat) : Rat := t / 8227 + n / 12241 + d / 22638

/-- The triangle, noise and DMC part of the mix (R1250). -/
def tndMix (t n d : Nat) : Rat := if tndSum t n d = 0 then 0 else (15979 / 100) / (1 / tndSum t n d + 100)

/-- `Mix()` under either value of MIXER (R1250, R1251). -/
def mixOf (m : Mixer) (p1 p2 t n d : Nat) : Rat :=
  match m with
  | .nonlinear => pulseMix (p1 + p2) + tndMix t n d
  | .linear => (752 / 100000) * ((p1 + p2 : Nat) : Rat) + (851 / 100000) * t + (494 / 100000) * n + (335 / 100000) * d

/-- `Mix()` of the five channel outputs (R1250). -/
def Apu.mix (a : Apu) : Rat :=
  mixOf Config.mixer (a.pulse1.output true) (a.pulse2.output false) a.triangle.output a.noise.output a.dmc.level.toNat

/-- `Accumulate(m)` once SAMPLE_RATE is known (R1252). -/
def AudioOut.accumulate (rate : Nat) (m : Rat) (o : AudioOut) : AudioOut :=
  let r : Rat := Config.cpuClockHz / rate
  let sum := o.boxSum + m
  let count := o.boxCount + 1
  let phase := o.phase + 1
  if r ≤ phase then { boxSum := 0, boxCount := 0, phase := phase - r, ready := o.ready ++ [sum / count] }
  else { o with boxSum := sum, boxCount := count, phase := phase }

end Sys2Proof.Machine
end

