-- ==== Sys2Proof/Machine/Pads.lean ====
section
/-! DEFINITION. The controller ports (20_memory R270 to R273). -/

namespace Sys2Proof.Machine

/-- `Pack(buttons)`: bit 0 = A, B, Select, Start, Up, Down, Left, bit 7 = Right (R271). -/
def Buttons.pack (b : Buttons) : Byte :=
  bitAt 0 b.a ||| bitAt 1 b.b ||| bitAt 2 b.select ||| bitAt 3 b.start
    ||| bitAt 4 b.up ||| bitAt 5 b.down ||| bitAt 6 b.left ||| bitAt 7 b.right

/-- `ControllerStrobe(v)` (R272). -/
def controllerStrobe (v : Byte) (s : State) : State :=
  let new := v.getLsbD 0
  if s.pads.strobe || new then
    { s with pads := { strobe := new, sr0 := s.host.buttons0.pack, sr1 := s.host.buttons1.pack } }
  else { s with pads := { s.pads with strobe := new } }

/-- A port's register at a read and after it (R273). -/
def padShift (strobe : Bool) (snapshot sr : Byte) : Byte × Byte :=
  if strobe then (snapshot, snapshot) else (sr, (sr >>> 1) ||| 0x80)

/-- `ControllerRead(0)` (R273). -/
def controllerRead0 (s : State) : Byte × State :=
  let r := padShift s.pads.strobe s.host.buttons0.pack s.pads.sr0
  ((s.openBus &&& 0xE0) ||| (r.1 &&& 1), { s with pads := { s.pads with sr0 := r.2 } })

/-- `ControllerRead(1)` (R273). -/
def controllerRead1 (s : State) : Byte × State :=
  let r := padShift s.pads.strobe s.host.buttons1.pack s.pads.sr1
  ((s.openBus &&& 0xE0) ||| (r.1 &&& 1), { s with pads := { s.pads with sr1 := r.2 } })

end Sys2Proof.Machine
end

