-- ==== Sys2Proof/Machine/Cart.lean ====
section
/-! DEFINITION. The cartridge, the mapper contract (20_memory R240 to R249) and the PPU address space (R250 to R257). -/

namespace Sys2Proof.Machine

/-- `Log(event)` (00_scope R12). -/
def State.addLog (e : LogEvent) (s : State) : State :=
  { s with host := { s.host with log := e :: s.host.log } }

/-- PRG RAM is present when the battery flag is set (R241, D30). -/
def Cart.prgRamPresent (c : Cart) : Bool := c.battery

/-- The PRG ROM byte at a CPU address `a >= 0x8000` (R243 to R245). -/
def Cart.prgByte (c : Cart) (a : Nat) : Byte :=
  match c.mapper with
  | .uxrom bank =>
    if a ≤ 0xBFFF then c.prg.read (bank.toNat * 16384 + (a - 0x8000))
    else c.prg.read ((c.prgBanks - 1) * 16384 + (a - 0xC000))
  | .nrom | .cnrom _ => c.prg.read ((a - 0x8000) % (16384 * c.prgBanks))

/-- `readProgram(a)` for `0x6000 <= a` (R243 to R246): ROM, PRG RAM, or open bus where PRG RAM is absent. -/
def readProgram (a : Nat) (s : State) : Byte × State :=
  if 0x8000 ≤ a then (s.cart.prgByte a, s)
  else if s.cart.prgRamPresent then (s.cart.prgRam.read (a - 0x6000), s)
  else (s.openBus, s.addLog (.unmappedRead a))

/-- A write to 0x8000-0xFFFF: ignored and logged under variant 0, a bank select under variants 2 and 3 (R212, R243 to R245). -/
def writeRom (a : Nat) (v : Byte) (s : State) : State :=
  match s.cart.mapper with
  | .nrom => s.addLog (.romWrite a v)
  | .uxrom _ => { s with cart := { s.cart with mapper := .uxrom (BitVec.ofNat 8 (v.toNat % s.cart.prgBanks)) } }
  | .cnrom _ => { s with cart := { s.cart with mapper := .cnrom (BitVec.ofNat 8 (v.toNat % max s.cart.chrBanks 1)) } }

/-- `writeProgram(a, v)` for `0x6000 <= a` (R243 to R246). -/
def writeProgram (a : Nat) (v : Byte) (s : State) : State :=
  if 0x8000 ≤ a then writeRom a v s
  else if s.cart.prgRamPresent then { s with cart := { s.cart with prgRam := s.cart.prgRam.write (a - 0x6000) v } }
  else s.addLog (.unmappedWrite a v)

/-- `readGraphics(a)` for `a <= 0x1FFF` (R243 to R246). -/
def Cart.readGraphics (c : Cart) (a : Nat) : Byte :=
  if c.chrBanks = 0 then c.chrRam.read a
  else
    match c.mapper with
    | .cnrom bank => c.chr.read (bank.toNat * 8192 + a)
    | .nrom | .uxrom _ => c.chr.read a

/-- `writeGraphics(a, v)` for `a <= 0x1FFF` (R243 to R246). -/
def writeGraphics (a : Nat) (v : Byte) (s : State) : State :=
  if s.cart.chrBanks = 0 then { s with cart := { s.cart with chrRam := s.cart.chrRam.write a v } }
  else s.addLog (.romWrite a v)

/-- `mapNametableAddress(a)` for `0x2000 <= a <= 0x3EFF` (R253). -/
def mapNametable (m : Mirroring) (a : Nat) : Nat :=
  let off := (a - 0x2000) % 0x1000
  let table := off / 0x400
  let idx := off % 0x400
  match m with
  | .horizontal => table / 2 * 0x400 + idx
  | .vertical => table % 2 * 0x400 + idx
  | .singleScreen => idx
  | .fourScreen => table * 0x400 + idx

/-- `PaletteIndex(a)` (R254). -/
def paletteIndex (a : Nat) : Nat :=
  let i := a % 0x20
  if i = 0x10 ∨ i = 0x14 ∨ i = 0x18 ∨ i = 0x1C then i - 0x10 else i

/-- The VRAM size in bytes (R256). -/
def vramSize (m : Mirroring) : Nat := if m = .fourScreen then 4096 else 2048

/-- `PpuRead(a)` (R250). -/
def ppuRead (s : State) (a : Nat) : Byte :=
  let a := a % 0x4000
  if a ≤ 0x1FFF then s.cart.readGraphics a
  else if a ≤ 0x3EFF then s.vram.read (mapNametable s.cart.mirroring a)
  else s.ppu.palette.read (paletteIndex a)

/-- `PpuWrite(a, v)` (R250, R255). -/
def ppuWrite (a : Nat) (v : Byte) (s : State) : State :=
  let a := a % 0x4000
  if a ≤ 0x1FFF then writeGraphics a v s
  else if a ≤ 0x3EFF then { s with vram := s.vram.write (mapNametable s.cart.mirroring a) v }
  else { s with ppu := { s.ppu with palette := s.ppu.palette.write (paletteIndex a) (v &&& 0x3F) } }

end Sys2Proof.Machine
end

