-- ==== Sys2Proof/Machine/PpuPorts.lean ====
section
/-! DEFINITION. The eight PPU ports (61_ppu R1101 to R1115). -/

namespace Sys2Proof.Machine

/-- `StatusRead()` (R1103, R1104). -/
def ppuStatusRead (s : State) : Byte × State :=
  (bitAt 7 s.ppu.vblank ||| bitAt 6 s.ppu.sprite0Hit ||| bitAt 5 s.ppu.spriteOverflow ||| (s.openBus &&& 0x1F),
   { s with ppu := { s.ppu with vblank := false, w := false } })

/-- `Inc()`: 32 when `ctrl.increment` is 1, else 1 (R1110). -/
def Ppu.inc (p : Ppu) : BitVec 15 := if p.ctrl.getLsbD 2 then 32 else 1

/-- `DataRead()` (R1110). -/
def ppuDataRead (s : State) : Byte × State :=
  let a := s.ppu.vaddr.toNat % 0x4000
  let r := if 0x3F00 ≤ a then ppuRead s a else s.ppu.readBuffer
  let buffer := if 0x3F00 ≤ a then ppuRead s (a - 0x1000) else ppuRead s a
  (r, { s with ppu := { s.ppu with readBuffer := buffer, vaddr := s.ppu.vaddr + s.ppu.inc } })

/-- `PpuPortRead(p)` (R1112): a write-only port reads open bus. -/
def ppuPortRead (port : Nat) (s : State) : Byte × State :=
  match port with
  | 2 => ppuStatusRead s
  | 4 => (s.ppu.oam.read s.ppu.oamAddr.toNat, s)
  | 7 => ppuDataRead s
  | _ => (s.openBus, s)

/-- `CtrlWrite(v)` (R1101, R1113). -/
def ppuCtrlWrite (v : Byte) (s : State) : State :=
  let rise := Config.nmiOnCtrlEnable && !s.ppu.ctrl.getLsbD 7 && v.getLsbD 7 && s.ppu.vblank
  { s with
    ppu := { s.ppu with ctrl := v, taddr := (s.ppu.taddr &&& ~~~0x0C00#15) ||| ((v &&& 0x03).setWidth 15 <<< 10) }
    cpu := { s.cpu with nmiPending := s.cpu.nmiPending || rise } }

/-- The OAMDATA write (R1106). -/
def Ppu.oamWrite (v : Byte) (p : Ppu) : Ppu :=
  { p with oam := p.oam.write p.oamAddr.toNat v, oamAddr := p.oamAddr + 1 }

/-- The PPUSCROLL write (R1108). -/
def Ppu.scrollWrite (v : Byte) (p : Ppu) : Ppu :=
  if p.w then
    { p with
      taddr := (p.taddr &&& ~~~0x73E0#15) ||| ((v &&& 0x07).setWidth 15 <<< 12) ||| ((v >>> 3).setWidth 15 <<< 5)
      w := false }
  else
    { p with taddr := (p.taddr &&& ~~~0x001F#15) ||| (v >>> 3).setWidth 15, fineX := v.setWidth 3, w := true }

/-- The PPUADDR write (R1109). -/
def Ppu.addrWrite (v : Byte) (p : Ppu) : Ppu :=
  if p.w then
    let t := (p.taddr &&& 0x7F00#15) ||| v.setWidth 15
    { p with taddr := t, vaddr := t, w := false }
  else
    { p with taddr := (p.taddr &&& 0x00FF#15) ||| ((v &&& 0x3F).setWidth 15 <<< 8), w := true }

/-- The PPUDATA write (R1111). -/
def ppuDataWrite (v : Byte) (s : State) : State :=
  let t := ppuWrite (s.ppu.vaddr.toNat % 0x4000) v s
  { t with ppu := { t.ppu with vaddr := s.ppu.vaddr + s.ppu.inc } }

/-- `PpuPortWrite(p, v)` (R1112): a write to port 2 is ignored. -/
def ppuPortWrite (port : Nat) (v : Byte) (s : State) : State :=
  match port with
  | 0 => ppuCtrlWrite v s
  | 1 => { s with ppu := { s.ppu with mask := v } }
  | 3 => { s with ppu := { s.ppu with oamAddr := v } }
  | 4 => { s with ppu := s.ppu.oamWrite v }
  | 5 => { s with ppu := s.ppu.scrollWrite v }
  | 6 => { s with ppu := s.ppu.addrWrite v }
  | 7 => ppuDataWrite v s
  | _ => s

end Sys2Proof.Machine
end

