-- ==== Sys2Proof/Machine/Ops.lean ====
section
/-! DEFINITION. The named operations over registers and the CPU bus: the register writes, `MemRead` and `MemWrite` with the
devices behind them (20_memory R204 to R214), the DMC's memory reader and OAM DMA, the helpers of 00_scope R11, and taking an
interrupt and returning from one (60_exceptions R1013, 44_control R820, R821). -/

namespace Sys2Proof.Machine

/-- What a step or an instruction answers. -/
abbrev Result := Host.Outcome State Fault Refusal

/-! Registers (10_state R100). -/

/-- `A <- v`. -/
def State.setA (v : Byte) (s : State) : State := { s with cpu := { s.cpu with a := v } }
/-- `X <- v`. -/
def State.setX (v : Byte) (s : State) : State := { s with cpu := { s.cpu with x := v } }
/-- `Y <- v`. -/
def State.setY (v : Byte) (s : State) : State := { s with cpu := { s.cpu with y := v } }
/-- `S <- v`. -/
def State.setS (v : Byte) (s : State) : State := { s with cpu := { s.cpu with s := v } }
/-- `P <- v`, all eight bits as given. -/
def State.setP (v : Byte) (s : State) : State := { s with cpu := { s.cpu with p := v } }
/-- `PC <- v`. -/
def State.setPc (v : Word) (s : State) : State := { s with cpu := { s.cpu with pc := v } }
/-- `EA <- v` (10_state R114). -/
def State.setEa (v : Word) (s : State) : State := { s with cpu := { s.cpu with ea := v } }
/-- `opcode <- v` (60_exceptions R1002). -/
def State.setOpcode (v : Byte) (s : State) : State := { s with cpu := { s.cpu with opcode := v } }
/-- `cycles <- cycles + n` (00_scope R12). -/
def State.addCycles (n : Nat) (s : State) : State := { s with cpu := { s.cpu with cycles := s.cpu.cycles + n } }
/-- `modeExtra <- n`, and its cycles counted once (40_addressing_load_store R402; log 6). -/
def State.setModeExtra (n : Nat) (s : State) : State :=
  { s with cpu := { s.cpu with modeExtra := n, cycles := s.cpu.cycles + n } }
/-- `insnExtra <- n`, and its cycles counted once (44_control R810; log 6). -/
def State.setInsnExtra (n : Nat) (s : State) : State :=
  { s with cpu := { s.cpu with insnExtra := n, cycles := s.cpu.cycles + n } }
/-- `openBus <- v` (20_memory R214). -/
def State.setOpenBus (v : Byte) (s : State) : State := { s with openBus := v }
/-- `stallCycles <- stallCycles + n` (60_exceptions R1003). -/
def State.addStall (n : Nat) (s : State) : State := { s with cpu := { s.cpu with stallCycles := s.cpu.stallCycles + n } }

/-- The start of an instruction's execution: its base cycles are counted and the extra-cycle fields cleared (60_exceptions
R1002). The base cycles are counted first so that `totalCycles + cycles` is the `t` of OAM DMA (61_ppu R1150; log 7). -/
def State.start (base : Nat) (s : State) : State :=
  { s with cpu := { s.cpu with cycles := s.cpu.cycles + base, modeExtra := 0, insnExtra := 0 } }

/-! The IRQ sources (60_exceptions R1012). -/

/-- `irqLine` (10_state R115). -/
def State.irqLine (s : State) : Bool := s.apu.frameIrq || s.apu.dmcIrq

/-- The IRQ latch after a source is raised: set, under IRQ_TRIGGER = edge, when the line was low (R1012; log 9). -/
def State.latchIrq (s : State) : Bool :=
  match Config.irqTrigger with
  | .level => s.cpu.irqLatch
  | .edge => s.cpu.irqLatch || !s.irqLine

/-- `frameIrq <- 1` (62_apu R1211). -/
def raiseFrameIrq (s : State) : State :=
  { s with cpu := { s.cpu with irqLatch := s.latchIrq }, apu := { s.apu with frameIrq := true } }

/-- `dmcIrq <- 1` (62_apu R1239). -/
def raiseDmcIrq (s : State) : State :=
  { s with cpu := { s.cpu with irqLatch := s.latchIrq }, apu := { s.apu with dmcIrq := true } }

/-! The CPU bus. -/

/-- `ApuStatusRead()` (62_apu R1222). -/
def apuStatusRead (s : State) : Byte × State :=
  let a := s.apu
  (bitAt 0 (a.pulse1.length != 0) ||| bitAt 1 (a.pulse2.length != 0) ||| bitAt 2 (a.triangle.length != 0)
    ||| bitAt 3 (a.noise.length != 0) ||| bitAt 4 (a.dmc.bytesRemaining != 0) ||| (s.openBus &&& 0x20)
    ||| bitAt 6 a.frameIrq ||| bitAt 7 a.dmcIrq,
   { s with apu := { a with frameIrq := false } })

/-- The device a CPU address reaches, read: the value and the device's side effects (20_memory R204, R207). -/
def busReadDevice (a : Word) (s : State) : Byte × State :=
  let n := a.toNat
  if n ≤ 0x1FFF then (s.ram.read (n % 0x800), s)
  else if n ≤ 0x3FFF then ppuPortRead (n % 8) s
  else if n ≤ 0x4014 then (s.openBus, s)
  else if n = 0x4015 then apuStatusRead s
  else if n = 0x4016 then controllerRead0 s
  else if n = 0x4017 then controllerRead1 s
  else if n ≤ 0x5FFF then (s.openBus, s.addLog (.unmappedRead n))
  else readProgram n s

/-- `MemRead(a, 1)` (20_memory R207): every read leaves its value in `openBus`. -/
def busRead (a : Word) (s : State) : Byte × State :=
  let r := busReadDevice a s
  (r.1, r.2.setOpenBus r.1)

/-- The DMC's registers written. -/
def State.setDmc (d : Dmc) (s : State) : State := { s with apu := { s.apu with dmc := d } }

/-- The sample address after a fetch (62_apu R1239). -/
def dmcNextAddr (a : Word) : Word := if a = 0xFFFF then 0x8000 else a + 1

/-- The end of a sample: restart when looping, else the interrupt when enabled (62_apu R1239). -/
def dmcSampleEnd (s : State) : State :=
  if s.apu.dmc.loop then s.setDmc s.apu.dmc.restart
  else if s.apu.dmc.irqEnable then raiseDmcIrq s
  else s

/-- `DmcFill()` (62_apu R1239, R1243). -/
def dmcFill (s : State) : State :=
  if s.apu.dmc.bufferEmpty = true ∧ s.apu.dmc.bytesRemaining ≠ 0 then
    let r := busRead s.apu.dmc.currentAddr s
    let t := r.2.addStall Config.dmcFetchStall
    let d := t.apu.dmc
    let t := t.setDmc { d with sampleBuffer := r.1, bufferEmpty := false, currentAddr := dmcNextAddr d.currentAddr
                               bytesRemaining := d.bytesRemaining - 1 }
    if t.apu.dmc.bytesRemaining = 0 then dmcSampleEnd t else t
  else s

/-- 0x4010 (62_apu R1217). -/
def Apu.writeDmcControl (v : Byte) (a : Apu) : Apu :=
  { a with
    dmc := { a.dmc with irqEnable := v.getLsbD 7, loop := v.getLsbD 6, rateIdx := v.extractLsb' 0 4 }
    dmcIrq := a.dmcIrq && v.getLsbD 7 }

/-- A write to 0x4015 (62_apu R1221). -/
def apuEnableWrite (v : Byte) (s : State) : State :=
  let a := s.apu
  let t := { s with
    apu := { a with
      pulse1 := a.pulse1.enable (v.getLsbD 0), pulse2 := a.pulse2.enable (v.getLsbD 1)
      triangle := a.triangle.enable (v.getLsbD 2), noise := a.noise.enable (v.getLsbD 3), dmcIrq := false } }
  if v.getLsbD 4 = false then t.setDmc { t.apu.dmc with bytesRemaining := 0 }
  else if t.apu.dmc.bytesRemaining = 0 then dmcFill (t.setDmc t.apu.dmc.restart)
  else t

/-- A write to 0x4017 (62_apu R1213). -/
def Apu.frameCounterWrite (v : Byte) (a : Apu) : Apu :=
  let b := { a with seqMode := v.getLsbD 7, irqInhibit := v.getLsbD 6, frameIrq := a.frameIrq && !v.getLsbD 6, frameCycle := 0 }
  if v.getLsbD 7 then b.quarterFrame.halfFrame else b

/-- The APU registers that touch only the APU (62_apu R1202); 0x4009 and 0x400D are unused. -/
def Apu.writeRegister (n : Nat) (v : Byte) (a : Apu) : Apu :=
  match n with
  | 0x4000 => { a with pulse1 := a.pulse1.writeControl v }
  | 0x4001 => { a with pulse1 := a.pulse1.writeSweep v }
  | 0x4002 => { a with pulse1 := { a.pulse1 with timer := timerLow v a.pulse1.timer } }
  | 0x4003 => { a with pulse1 := a.pulse1.writeHigh v }
  | 0x4004 => { a with pulse2 := a.pulse2.writeControl v }
  | 0x4005 => { a with pulse2 := a.pulse2.writeSweep v }
  | 0x4006 => { a with pulse2 := { a.pulse2 with timer := timerLow v a.pulse2.timer } }
  | 0x4007 => { a with pulse2 := a.pulse2.writeHigh v }
  | 0x4008 => { a with triangle := a.triangle.writeLinear v }
  | 0x400A => { a with triangle := { a.triangle with timer := timerLow v a.triangle.timer } }
  | 0x400B => { a with triangle := a.triangle.writeHigh v }
  | 0x400C => { a with noise := a.noise.writeControl v }
  | 0x400E => { a with noise := a.noise.writePeriod v }
  | 0x400F => { a with noise := a.noise.writeLength v }
  | 0x4010 => a.writeDmcControl v
  | 0x4011 => { a with dmc := { a.dmc with level := v.setWidth 7 } }
  | 0x4012 => { a with dmc := { a.dmc with sampleAddrReg := v } }
  | 0x4013 => { a with dmc := { a.dmc with sampleLengthReg := v } }
  | 0x4017 => a.frameCounterWrite v
  | _ => a

/-- `ApuRegisterWrite(a, v)` (62_apu R1202). -/
def apuRegisterWrite (n : Nat) (v : Byte) (s : State) : State :=
  if n = 0x4015 then apuEnableWrite v s else { s with apu := s.apu.writeRegister n v }

/-- One byte of OAM DMA: byte `i` of page `v` (61_ppu R1150). -/
def oamDmaByte (v : Byte) (i : Nat) (s : State) : State :=
  let r := busRead (mkWord v (BitVec.ofNat 8 i)) s
  { r.2 with ppu := { r.2.ppu with oam := r.2.ppu.oam.write ((r.2.ppu.oamAddr.toNat + i) % 256) r.1 } }

/-- The bytes of OAM DMA listed, in order (61_ppu R1150). -/
def oamDmaCopy (v : Byte) : List Nat → State → State
  | [], s => s
  | i :: rest, s => oamDmaCopy v rest (oamDmaByte v i s)

/-- `OamDma(v)` (61_ppu R1150): the writing instruction's cycles are all counted before its write (log 7). -/
def oamDma (v : Byte) (s : State) : State :=
  let t := oamDmaCopy v (List.range 256) s
  t.addStall (Config.oamDmaStall + (s.cpu.totalCycles + s.cpu.cycles) % 2)

/-- `MemWrite(a, 1, v)` (20_memory R208): a write leaves `openBus` alone. -/
def busWrite (a : Word) (v : Byte) (s : State) : State :=
  let n := a.toNat
  if n ≤ 0x1FFF then { s with ram := s.ram.write (n % 0x800) v }
  else if n ≤ 0x3FFF then ppuPortWrite (n % 8) v s
  else if n ≤ 0x4013 ∨ n = 0x4015 then apuRegisterWrite n v s
  else if n = 0x4014 then oamDma v s
  else if n = 0x4016 then controllerStrobe v s
  else if n = 0x4017 then apuRegisterWrite n v s
  else if n ≤ 0x5FFF then s.addLog (.unmappedWrite n v)
  else writeProgram n v s

/-! The helpers of 00_scope R11. -/

/-- `Fetch8()`. -/
def fetch8 (s : State) : Byte × State :=
  let r := busRead s.cpu.pc s
  (r.1, r.2.setPc (s.cpu.pc + 1))

/-- Two byte reads, low byte first, as every 16-bit read is (20_memory R203). -/
def read16At (lo hi : Word) (s : State) : Word × State :=
  let l := busRead lo s
  let h := busRead hi l.2
  (mkWord h.1 l.1, h.2)

/-- `Read16(a)`. -/
def read16 (a : Word) (s : State) : Word × State := read16At a (a + 1) s

/-- `Read16ZP(z)`: the pointer wraps in page 0. -/
def read16Zp (z : Byte) (s : State) : Word × State := read16At (zext16 z) (zext16 (z + 1)) s

/-- `Read16Wrap(a)`: the high byte comes from the same page (JMP indirect only). -/
def read16Wrap (a : Word) (s : State) : Word × State := read16At a (mkWord (hiByte a) (loByte a + 1)) s

/-- The stack byte's address, `0x0100 + S` (10_state R104). -/
def stackAddr (sp : Byte) : Word := 0x0100 + zext16 sp

/-- `Push8(v)`. -/
def push8 (v : Byte) (s : State) : State := (busWrite (stackAddr s.cpu.s) v s).setS (s.cpu.s - 1)

/-- `Pull8()`. -/
def pull8 (s : State) : Byte × State :=
  let t := s.setS (s.cpu.s + 1)
  busRead (stackAddr t.cpu.s) t

/-- `Push16(w)`: high byte first. -/
def push16 (w : Word) (s : State) : State := push8 (loByte w) (push8 (hiByte w) s)

/-- `Pull16()`: low byte first. -/
def pull16 (s : State) : Word × State :=
  let l := pull8 s
  let h := pull8 l.2
  (mkWord h.1 l.1, h.2)

/-! Taking an interrupt and returning from one. -/

/-- The P a push stores with B = 1: PHP and BRK (10_state R107). -/
def pushedBreak (p : Byte) : Byte := p ||| 0x30

/-- The P a push stores with B = 0: NMI and IRQ entries (10_state R107). -/
def pushedIrq (p : Byte) : Byte := (p &&& 0xEF) ||| 0x20

/-- The P a pull stores: B = 0, U = 1 (10_state R107). -/
def pulledP (v : Byte) : Byte := (v &&& 0xEF) ||| 0x20

/-- The one entry sequence of NMI, IRQ and BRK: PC and the given copy of P saved on the stack, I set, PC loaded from the
vector (60_exceptions R1013, 44_control R820). -/
def enterInterrupt (savedP : Byte) (vector : Word) (s : State) : State :=
  let t := push8 savedP (push16 s.cpu.pc s)
  let t := t.setP (putBit t.cpu.p 2 true)
  let r := read16 vector t
  r.2.setPc r.1

/-- The return from any of them: P, then PC, from the stack (44_control R821, 60_exceptions R1020). -/
def returnFromInterrupt (s : State) : State :=
  let p := pull8 s
  let r := pull16 (p.2.setP (pulledP p.1))
  r.2.setPc r.1

end Sys2Proof.Machine
end

