-- ==== Sys2Proof/Machine/PpuRender.lean ====
section
/-! DEFINITION. One PPU cycle: the scanline and dot position, the background pipeline, sprite evaluation and pixel
composition (61_ppu R1120 to R1147). `rd` is `PpuRead` at the state of the dot. -/

namespace Sys2Proof.Machine

/-- `rendering` (R1102). -/
def Ppu.rendering (p : Ppu) : Bool := p.mask.getLsbD 3 || p.mask.getLsbD 4

/-- `FetchNT()` (R1131). -/
def Ppu.fetchNT (rd : Nat → Byte) (p : Ppu) : Ppu :=
  { p with ntByte := rd (0x2000#15 ||| (p.vaddr &&& 0x0FFF)).toNat }

/-- `FetchAT()` (R1131): the two attribute bits of the tile's 16x16 quadrant. -/
def Ppu.fetchAT (rd : Nat → Byte) (p : Ppu) : Ppu :=
  let v := p.vaddr
  let b := rd (0x23C0#15 ||| (v &&& 0x0C00) ||| ((v >>> 4) &&& 0x38) ||| ((v >>> 2) &&& 0x07)).toNat
  let b := if v.getLsbD 6 then b >>> 4 else b
  let b := if v.getLsbD 1 then b >>> 2 else b
  { p with atBits := b.setWidth 2 }

/-- The pattern address of the tile row, bit plane 0 (R1131). -/
def Ppu.bgPatternAddr (p : Ppu) : Nat :=
  (if p.ctrl.getLsbD 4 then 0x1000 else 0x0000) + p.ntByte.toNat * 16 + (p.vaddr >>> 12).toNat % 8

/-- `FetchPTLo()` (R1131). -/
def Ppu.fetchPTLo (rd : Nat → Byte) (p : Ppu) : Ppu := { p with ptLo := rd p.bgPatternAddr }

/-- `FetchPTHi()` (R1131). -/
def Ppu.fetchPTHi (rd : Nat → Byte) (p : Ppu) : Ppu := { p with ptHi := rd (p.bgPatternAddr + 8) }

/-- `LoadBg()` (R1131). -/
def Ppu.loadBg (p : Ppu) : Ppu :=
  { p with
    bgShiftLo := (p.bgShiftLo &&& 0xFF00) ||| zext16 p.ptLo
    bgShiftHi := (p.bgShiftHi &&& 0xFF00) ||| zext16 p.ptHi
    atShiftLo := (p.atShiftLo &&& 0xFF00) ||| (if p.atBits.getLsbD 0 then 0x00FF else 0x0000)
    atShiftHi := (p.atShiftHi &&& 0xFF00) ||| (if p.atBits.getLsbD 1 then 0x00FF else 0x0000) }

/-- `IncCoarseX()` on `vaddr` (R1132). -/
def incCoarseX (v : BitVec 15) : BitVec 15 :=
  if v &&& 0x001F = 31 then (v &&& ~~~0x001F#15) ^^^ 0x0400 else v + 1

/-- `IncY()` on `vaddr` (R1133). -/
def incY (v : BitVec 15) : BitVec 15 :=
  if v &&& 0x7000 ≠ 0x7000 then v + 0x1000
  else
    let v := v &&& ~~~0x7000#15
    let y := (v &&& 0x03E0) >>> 5
    if y = 29 then (v ^^^ 0x0800) &&& ~~~0x03E0#15
    else if y = 31 then v &&& ~~~0x03E0#15
    else (v &&& ~~~0x03E0#15) ||| ((y + 1) <<< 5)

/-- `CopyX()` (R1134). -/
def copyX (v t : BitVec 15) : BitVec 15 := (v &&& ~~~0x041F#15) ||| (t &&& 0x041F)

/-- `CopyY()` (R1134). -/
def copyY (v t : BitVec 15) : BitVec 15 := (v &&& ~~~0x7BE0#15) ||| (t &&& 0x7BE0)

/-- The four shift registers moved left by one (R1130). -/
def Ppu.shiftBg (p : Ppu) : Ppu :=
  { p with bgShiftLo := p.bgShiftLo <<< 1, bgShiftHi := p.bgShiftHi <<< 1, atShiftLo := p.atShiftLo <<< 1, atShiftHi := p.atShiftHi <<< 1 }

/-- The fetch of a dot by its place in the tile's 8 dots (R1130). -/
def Ppu.bgFetch (rd : Nat → Byte) (p : Ppu) : Ppu :=
  match (p.dot - 1) % 8 with
  | 0 => (p.loadBg).fetchNT rd
  | 2 => p.fetchAT rd
  | 4 => p.fetchPTLo rd
  | 6 => p.fetchPTHi rd
  | 7 => { p with vaddr := incCoarseX p.vaddr }
  | _ => p

/-- The scroll updates of a dot (R1130). -/
def Ppu.scrollDot (p : Ppu) : Ppu :=
  let v := if p.dot = 256 then incY p.vaddr else p.vaddr
  let v := if p.dot = 257 then copyX v p.taddr else v
  let v := if p.scanline = 261 ∧ 280 ≤ p.dot ∧ p.dot ≤ 304 then copyY v p.taddr else v
  { p with vaddr := v }

/-- `BackgroundDot()` (R1130). -/
def Ppu.backgroundDot (rd : Nat → Byte) (p : Ppu) : Ppu :=
  let p := if (2 ≤ p.dot ∧ p.dot ≤ 257) ∨ (321 ≤ p.dot ∧ p.dot ≤ 337) then p.shiftBg.bgFetch rd else p
  p.scrollDot

/-- The pattern address of row `r` of a sprite's tile, bit plane 0 (R1141). -/
def spritePatternAddr (ctrl tile : Byte) (h r : Nat) : Nat :=
  if h = 8 then (if ctrl.getLsbD 3 then 0x1000 else 0) + tile.toNat * 16 + r
  else (if tile.getLsbD 0 then 0x1000 else 0) + (tile &&& 0xFE).toNat * 16 + (if 8 ≤ r then 16 else 0) + r % 8

/-- `LoadSprite(s, i, row, h)` (R1141). -/
def Ppu.loadSprite (rd : Nat → Byte) (slot i row h : Nat) (p : Ppu) : Ppu :=
  let attr := p.oam.read (4 * i + 2)
  let r := if attr.getLsbD 7 then h - 1 - row else row
  let addr := spritePatternAddr p.ctrl (p.oam.read (4 * i + 1)) h r
  let lo := if attr.getLsbD 6 then reverse8 (rd addr) else rd addr
  let hi := if attr.getLsbD 6 then reverse8 (rd (addr + 8)) else rd (addr + 8)
  { p with slots := p.slots.setIfInBounds slot { x := p.oam.read (4 * i + 3), attr := attr, lo := lo, hi := hi } }

/-- The scan of primary OAM over the sprites listed (R1140). -/
def Ppu.spriteScan (rd : Nat → Byte) (h : Nat) : List Nat → Ppu → Ppu
  | [], p => p
  | i :: rest, p =>
    let y := (p.oam.read (4 * i)).toNat
    if y ≤ p.scanline ∧ p.scanline - y < h then
      if p.sprCount = 8 then { p with spriteOverflow := true }
      else
        let q := p.loadSprite rd p.sprCount i (p.scanline - y) h
        Ppu.spriteScan rd h rest { q with sprCount := p.sprCount + 1, sprZeroInLine := p.sprZeroInLine || i == 0 }
    else Ppu.spriteScan rd h rest p

/-- `SpriteDot257()` (R1140). -/
def Ppu.spriteDot257 (rd : Nat → Byte) (p : Ppu) : Ppu :=
  let q := { p with sprCount := 0, sprZeroInLine := false }
  if p.rendering && decide (p.scanline ≤ 239) then q.spriteScan rd (if p.ctrl.getLsbD 5 then 16 else 8) (List.range 64) else q

/-- Two bits as a number, the high one first. -/
def twoBits (hi lo : Bool) : Nat := 2 * hi.toNat + lo.toNat

/-- What a layer gives at a pixel: its 2-bit value (0 transparent), its palette, and, for a sprite, whether it is behind the
background and whether it is OAM sprite 0 (R1143). -/
structure Pixel where
  value : Nat
  pal : Nat
  behind : Bool
  zero : Bool
deriving DecidableEq, Repr

/-- A transparent pixel. -/
def Pixel.clear : Pixel := { value := 0, pal := 0, behind := false, zero := false }

/-- The background's pixel at column `x` (R1143). -/
def Ppu.bgPixel (p : Ppu) (x : Nat) : Pixel :=
  if p.mask.getLsbD 3 && (p.mask.getLsbD 1 || decide (8 ≤ x)) then
    let k := 15 - p.fineX.toNat
    { value := twoBits (p.bgShiftHi.getLsbD k) (p.bgShiftLo.getLsbD k)
      pal := twoBits (p.atShiftHi.getLsbD k) (p.atShiftLo.getLsbD k), behind := false, zero := false }
  else Pixel.clear

/-- A slot's 2-bit value at column `x`: 0 outside its 8 columns (R1143). -/
def SpriteSlot.value (t : SpriteSlot) (x : Nat) : Nat :=
  if t.x.toNat ≤ x ∧ x - t.x.toNat ≤ 7 then
    twoBits (t.hi.getLsbD (7 - (x - t.x.toNat))) (t.lo.getLsbD (7 - (x - t.x.toNat)))
  else 0

/-- The first opaque pixel among the slots listed, lowest first; `zero` says whether the first of them holds sprite 0 (R1143). -/
def firstSprite (x : Nat) : Bool → List SpriteSlot → Pixel
  | _, [] => Pixel.clear
  | zero, t :: rest =>
    if t.value x ≠ 0 then { value := t.value x, pal := (t.attr &&& 3).toNat + 4, behind := t.attr.getLsbD 5, zero := zero }
    else firstSprite x false rest

/-- The sprite layer's pixel at column `x` (R1143). -/
def Ppu.spritePixel (p : Ppu) (x : Nat) : Pixel :=
  if p.mask.getLsbD 4 && (p.mask.getLsbD 2 || decide (8 ≤ x)) then
    firstSprite x p.sprZeroInLine (p.slots.toList.take p.sprCount)
  else Pixel.clear

/-- The palette address shown for a background and a sprite pixel (R1143, R1144). -/
def muxAddr (bg sp : Pixel) : Nat :=
  if sp.value ≠ 0 ∧ (bg.value = 0 ∨ sp.behind = false) then 0x3F00 + sp.pal * 4 + sp.value
  else if bg.value ≠ 0 then 0x3F00 + bg.pal * 4 + bg.value
  else 0x3F00

/-- Whether a pixel sets `sprite0Hit` (R1143, R1145). -/
def hits0 (bg sp : Pixel) (x : Nat) : Bool := bg.value != 0 && sp.value != 0 && sp.zero && x != 255

/-- `Output(x, y, c)` (R1146). -/
def Ppu.output (x y : Nat) (c : Byte) (p : Ppu) : Ppu :=
  { p with framebuffer := p.framebuffer.write x y (if p.mask.getLsbD 0 then c &&& 0x30 else c) }

/-- `ComposePixel(x, y)` (R1143, R1147). -/
def Ppu.composePixel (x y : Nat) (p : Ppu) : Ppu :=
  let bg := p.bgPixel x
  let sp := p.spritePixel x
  let addr := if p.rendering then muxAddr bg sp else 0x3F00
  let q := { p with sprite0Hit := p.sprite0Hit || (p.rendering && hits0 bg sp x) }
  q.output x y (p.palette.read (paletteIndex addr))

/-- The rendering work of the dot (R1120, R1121). -/
def Ppu.renderDot (rd : Nat → Byte) (p : Ppu) : Ppu :=
  let line := p.scanline ≤ 239 ∨ p.scanline = 261
  let q := if line ∧ p.rendering = true then p.backgroundDot rd else p
  let q := if line ∧ p.dot = 257 then q.spriteDot257 rd else q
  if p.scanline ≤ 239 ∧ 1 ≤ p.dot ∧ p.dot ≤ 256 then q.composePixel (p.dot - 1) p.scanline else q

/-- Whether the dot is line 241, dot 1, where vblank begins (R1123). -/
def Ppu.entersVblank (p : Ppu) : Bool := p.scanline == 241 && p.dot == 1

/-- The status flags of the dot (R1123, R1124). -/
def Ppu.flagDot (p : Ppu) : Ppu :=
  if p.scanline = 241 ∧ p.dot = 1 then { p with vblank := true }
  else if p.scanline = 261 ∧ p.dot = 1 then { p with vblank := false, sprite0Hit := false, spriteOverflow := false }
  else p

/-- `Advance()` (R1122). -/
def Ppu.advance (p : Ppu) : Ppu :=
  if p.scanline = 261 ∧ p.dot = 339 ∧ p.oddFrame = true ∧ p.rendering = true then
    { p with dot := 0, scanline := 0, oddFrame := false }
  else if p.dot + 1 = 341 then
    if p.scanline + 1 = 262 then { p with dot := 0, scanline := 0, oddFrame := !p.oddFrame }
    else { p with dot := 0, scanline := p.scanline + 1 }
  else { p with dot := p.dot + 1 }

/-- `EnterVblank()`'s effects outside the PPU: the NMI latch and the frame handed to the host (R1123, R1148). -/
def vblankSignals (s : State) : State :=
  { s with
    cpu := { s.cpu with nmiPending := s.cpu.nmiPending || s.ppu.ctrl.getLsbD 7 }
    host := { s.host with frames := s.ppu.framebuffer :: s.host.frames } }

/-- `PpuTick()` (R1120). -/
def ppuTick (s : State) : State :=
  let t := { s with ppu := (s.ppu.renderDot (ppuRead s)).flagDot }
  let t := if s.ppu.entersVblank then vblankSignals t else t
  { t with ppu := t.ppu.advance }

end Sys2Proof.Machine
end

