-- ==== Sys2Proof/Machine/Devices.lean ====
section
/-! DEFINITION. The APU cycle and the device cycles of a step (62_apu R1201, R1211, R1238; 70_reset_and_hazards R1310). -/

namespace Sys2Proof.Machine

/-- `DmcOutputClock()` (62_apu R1238). -/
def dmcOutputClock (s : State) : State :=
  let d := s.apu.dmc
  let level := dmcLevel d.silence (d.shiftReg.getLsbD 0) d.level
  let shifted := { d with level := level, shiftReg := d.shiftReg >>> 1 }
  if d.bitsRemaining - 1 = 0 then
    if d.bufferEmpty then s.setDmc { shifted with bitsRemaining := 8, silence := true }
    else dmcFill (s.setDmc { shifted with bitsRemaining := 8, silence := false, shiftReg := d.sampleBuffer, bufferEmpty := true })
  else s.setDmc { shifted with bitsRemaining := d.bitsRemaining - 1 }

/-- `DmcTimer()` (62_apu R1238). -/
def dmcTimer (s : State) : State :=
  let d := s.apu.dmc
  if d.timerCounter = 0 then dmcOutputClock (s.setDmc { d with timerCounter := dmcRate d.rateIdx.toNat })
  else s.setDmc { d with timerCounter := d.timerCounter - 1 }

/-- What a count of the frame sequencer does (62_apu R1211): quarter frame, half frame, wrap. -/
structure SequencerEvent where
  quarter : Bool
  half : Bool
  wrap : Bool
deriving DecidableEq, Repr

/-- The cadence of the two modes (62_apu R1211, R1212). -/
def sequencerEvent (fiveStep : Bool) (n : Nat) : SequencerEvent :=
  let last := if fiveStep then 37281 else 29829
  { quarter := n == 7457 || n == 14913 || n == 22371 || n == last
    half := n == 14913 || n == last
    wrap := n == last + 1 }

/-- `FrameSequencer()` (62_apu R1211). -/
def frameSequencer (s : State) : State :=
  let n := s.apu.frameCycle + 1
  let e := sequencerEvent s.apu.seqMode n
  let a := { s.apu with frameCycle := if e.wrap then 0 else n }
  let a := if e.quarter then a.quarterFrame else a
  let a := if e.half then a.halfFrame else a
  let t := { s with apu := a }
  if s.apu.seqMode = false ∧ n = 29829 ∧ s.apu.irqInhibit = false then raiseFrameIrq t else t

/-- `Accumulate(Mix())` (62_apu R1252): nothing until SAMPLE_RATE is given. -/
def accumulateSample (s : State) : State :=
  match s.host.sampleRate with
  | none => s
  | some rate => { s with apu := { s.apu with out := s.apu.out.accumulate rate s.apu.mix } }

/-- The timers an APU cycle clocks besides the DMC's (62_apu R1201). -/
def Apu.clockTimers (a : Apu) : Apu :=
  { a with pulse1 := a.pulse1.clockTimer, pulse2 := a.pulse2.clockTimer, noise := a.noise.clockTimer }

/-- `ApuTick()` (62_apu R1201). -/
def apuTick (s : State) : State :=
  let t := { s with apu := { s.apu with triangle := s.apu.triangle.clockTimer } }
  let t := if s.apu.cpuPhase = false then dmcTimer { t with apu := t.apu.clockTimers } else t
  let t := { t with apu := { t.apu with cpuPhase := !s.apu.cpuPhase } }
  accumulateSample (frameSequencer t)

/-- The devices' part of one CPU cycle: three PPU cycles, then one APU call (70_reset_and_hazards R1310). -/
def deviceCycle (s : State) : State := apuTick (ppuTick (ppuTick (ppuTick s)))

/-- The device cycles of a step that took `n` CPU cycles (70_reset_and_hazards R1310). -/
def runDevices : Nat → State → State
  | 0, s => s
  | n + 1, s => runDevices n (deviceCycle s)

end Sys2Proof.Machine
end

