-- ==== Sys2Proof/Machine/Flags.lean ====
section
/-! DEFINITION. Every flag computation (10_state R106 to R113, 42_logic_arith R605 to R608, 43_shift_rotate). -/

namespace Sys2Proof.Machine

/-- `P.C` (bit 0). -/
def flagC (p : Byte) : Bool := p.getLsbD 0
/-- `P.Z` (bit 1). -/
def flagZ (p : Byte) : Bool := p.getLsbD 1
/-- `P.I` (bit 2). -/
def flagI (p : Byte) : Bool := p.getLsbD 2
/-- `P.D` (bit 3). -/
def flagD (p : Byte) : Bool := p.getLsbD 3
/-- `P.V` (bit 6). -/
def flagV (p : Byte) : Bool := p.getLsbD 6
/-- `P.N` (bit 7). -/
def flagN (p : Byte) : Bool := p.getLsbD 7

/-- `P.C <- b`. -/
def putC (b : Bool) (p : Byte) : Byte := putBit p 0 b
/-- `P.Z <- b`. -/
def putZ (b : Bool) (p : Byte) : Byte := putBit p 1 b
/-- `P.I <- b`. -/
def putI (b : Bool) (p : Byte) : Byte := putBit p 2 b
/-- `P.D <- b`. -/
def putD (b : Bool) (p : Byte) : Byte := putBit p 3 b
/-- `P.V <- b`. -/
def putV (b : Bool) (p : Byte) : Byte := putBit p 6 b
/-- `P.N <- b`. -/
def putN (b : Bool) (p : Byte) : Byte := putBit p 7 b

/-- `SetZN(v)` on P (00_scope R11). -/
def putZN (v : Byte) (p : Byte) : Byte := putN (v.getLsbD 7) (putZ (v == 0) p)

/-- `SetZN(v)` (00_scope R11). -/
def State.setZN (v : Byte) (s : State) : State := s.setP (putZN v s.cpu.p)

/-- `A + M + P.C` as an integer, 0..511 (R605). -/
def adcSum (a m : Byte) (c : Bool) : Nat := a.toNat + m.toNat + c.toNat

/-- ADC's overflow: operands of equal sign, result of the other sign (R605). -/
def adcOverflow (a m r : Byte) : Bool := (~~~(a ^^^ m) &&& (a ^^^ r)).getLsbD 7

/-- P after an addition (R605): C, V, then Z and N of the result; I and D kept. -/
def adcFlags (a m : Byte) (p : Byte) : Byte :=
  let sum := adcSum a m (flagC p)
  let r := BitVec.ofNat 8 sum
  putZN r (putV (adcOverflow a m r) (putC (decide (0xFF < sum)) p))

/-- P after `Compare(R, M)` (R608). -/
def compareFlags (r m : Byte) (p : Byte) : Byte :=
  putN ((r - m).getLsbD 7) (putZ (r == m) (putC (decide (m.toNat ≤ r.toNat)) p))

/-- P after BIT (R604). -/
def bitFlags (a m : Byte) (p : Byte) : Byte :=
  putV (m.getLsbD 6) (putN (m.getLsbD 7) (putZ (a &&& m == 0) p))

/-- ASL's result (43_shift_rotate R700). -/
def aslResult (v : Byte) : Byte := v <<< 1

/-- LSR's result (R701). -/
def lsrResult (v : Byte) : Byte := v >>> 1

/-- ROL's result (R702): the old carry enters bit 0. -/
def rolResult (c : Bool) (v : Byte) : Byte := (v <<< 1) ||| bitAt 0 c

/-- ROR's result (R703): the old carry enters bit 7. -/
def rorResult (c : Bool) (v : Byte) : Byte := (v >>> 1) ||| bitAt 7 c

/-- P after a shift or rotate: the bit shifted out to C, Z and N of the result (R700 to R703). -/
def shiftFlags (out : Bool) (r : Byte) (p : Byte) : Byte := putZN r (putC out p)

end Sys2Proof.Machine
end

