-- ==== Sys2Proof/Machine/Operands.lean ====
section
/-! DEFINITION. Operand resolution in every addressing mode (40_addressing_load_store R410 to R422) and the access classes of
R401. A resolver takes the operand the instruction carries, its bytes already fetched, and leaves the effective address in
`EA` and the page-cross cycle in `modeExtra`. -/

namespace Sys2Proof.Machine

/-- The page-cross penalty of R402: `penalty` says whether the row carries it. -/
def State.penalise (penalty : Bool) (base target : Word) (s : State) : State :=
  s.setModeExtra (if penalty && pageCross base target then 1 else 0)

/-- ZeroPage (R413). -/
def resolveZp (z : Byte) (s : State) : State := s.setEa (zext16 z)

/-- ZeroPageX (R414): the sum wraps in page 0. -/
def resolveZpx (z : Byte) (s : State) : State := s.setEa (zext16 (z + s.cpu.x))

/-- ZeroPageY (R415): the sum wraps in page 0. -/
def resolveZpy (z : Byte) (s : State) : State := s.setEa (zext16 (z + s.cpu.y))

/-- Absolute (R416). -/
def resolveAbs (a : Word) (s : State) : State := s.setEa a

/-- AbsoluteX (R417). -/
def resolveAbx (penalty : Bool) (a : Word) (s : State) : State :=
  let ea := a + zext16 s.cpu.x
  (s.setEa ea).penalise penalty a ea

/-- AbsoluteY (R418). -/
def resolveAby (penalty : Bool) (a : Word) (s : State) : State :=
  let ea := a + zext16 s.cpu.y
  (s.setEa ea).penalise penalty a ea

/-- Indirect (R419): the pointer's high byte comes from the same page. -/
def resolveInd (ptr : Word) (s : State) : State :=
  let r := read16Wrap ptr s
  r.2.setEa r.1

/-- IndexedIndirectX (R420). -/
def resolveIzx (z : Byte) (s : State) : State :=
  let r := read16Zp (z + s.cpu.x) s
  r.2.setEa r.1

/-- IndirectIndexedY (R421). -/
def resolveIzy (penalty : Bool) (z : Byte) (s : State) : State :=
  let r := read16Zp z s
  let ea := r.1 + zext16 s.cpu.y
  (r.2.setEa ea).penalise penalty r.1 ea

/-- The immediate form of a read-class instruction (R401, R412): `M` is the fetched byte. -/
def readImm (base : Nat) (op : Byte → State → State) (v : Byte) (s : State) : Result := .next (op v (s.start base))

/-- A memory form of the read class (R401): one read of `EA`. -/
def readMem (base : Nat) (resolve : State → State) (op : Byte → State → State) (s : State) : Result :=
  let t := resolve (s.start base)
  let r := busRead t.cpu.ea t
  .next (op r.1 r.2)

/-- The write class (R401): one write of `EA`, no read of it. -/
def writeMem (base : Nat) (resolve : State → State) (value : State → Byte) (s : State) : Result :=
  let t := resolve (s.start base)
  .next (busWrite t.cpu.ea (value t) t)

/-- The read-modify-write class (R401, R403): one read of `EA`, then one write; then P from the old P, the operand and the
result. -/
def modifyMem (base : Nat) (resolve : State → State) (result : Byte → Byte → Byte) (flags : Byte → Byte → Byte → Byte)
    (s : State) : Result :=
  let t := resolve (s.start base)
  let m := busRead t.cpu.ea t
  let r := result t.cpu.p m.1
  let w := busWrite t.cpu.ea r m.2
  .next (w.setP (flags t.cpu.p m.1 r))

/-- The accumulator form of a read-modify-write instruction (R401, R411). -/
def modifyAcc (base : Nat) (result : Byte → Byte → Byte) (flags : Byte → Byte → Byte → Byte) (s : State) : Result :=
  let t := s.start base
  let r := result t.cpu.p t.cpu.a
  .next ((t.setA r).setP (flags t.cpu.p t.cpu.a r))

/-- An implied instruction (R410). -/
def implied (base : Nat) (op : State → State) (s : State) : Result := .next (op (s.start base))

end Sys2Proof.Machine
end

