-- ==== Sys2Proof/Machine/Arith.lean ====
section
/-! DEFINITION. Logic, arithmetic, compares, increments and decrements (42_logic_arith R600 to R617). -/

namespace Sys2Proof.Machine

/-- `A <- A & M; SetZN(A)` (R601). -/
def andA (m : Byte) (s : State) : State := (s.setA (s.cpu.a &&& m)).setZN (s.cpu.a &&& m)
/-- `A <- A | M; SetZN(A)` (R602). -/
def oraA (m : Byte) (s : State) : State := (s.setA (s.cpu.a ||| m)).setZN (s.cpu.a ||| m)
/-- `A <- A ^ M; SetZN(A)` (R603). -/
def eorA (m : Byte) (s : State) : State := (s.setA (s.cpu.a ^^^ m)).setZN (s.cpu.a ^^^ m)
/-- BIT's flags; A is unchanged (R604). -/
def bitA (m : Byte) (s : State) : State := s.setP (bitFlags s.cpu.a m s.cpu.p)
/-- The addition of R605, binary whatever D holds (R606). -/
def adcA (m : Byte) (s : State) : State :=
  (s.setA (BitVec.ofNat 8 (adcSum s.cpu.a m (flagC s.cpu.p)))).setP (adcFlags s.cpu.a m s.cpu.p)
/-- ADC with the operand complemented (R607). -/
def sbcA (m : Byte) (s : State) : State := adcA (m ^^^ 0xFF) s
/-- `Compare(A, M)` (R609). -/
def cmpA (m : Byte) (s : State) : State := s.setP (compareFlags s.cpu.a m s.cpu.p)
/-- `Compare(X, M)` (R610). -/
def cpxX (m : Byte) (s : State) : State := s.setP (compareFlags s.cpu.x m s.cpu.p)
/-- `Compare(Y, M)` (R611). -/
def cpyY (m : Byte) (s : State) : State := s.setP (compareFlags s.cpu.y m s.cpu.p)
/-- INC's result (R612); P is not read. -/
def incResult (_p m : Byte) : Byte := m + 1
/-- DEC's result (R613); P is not read. -/
def decResult (_p m : Byte) : Byte := m - 1
/-- `SetZN` of the result (R612, R613). -/
def incFlags (p _m r : Byte) : Byte := putZN r p
/-- `X <- X +8 1; SetZN(X)` (R614). -/
def inxOp (s : State) : State := (s.setX (s.cpu.x + 1)).setZN (s.cpu.x + 1)
/-- `Y <- Y +8 1; SetZN(Y)` (R615). -/
def inyOp (s : State) : State := (s.setY (s.cpu.y + 1)).setZN (s.cpu.y + 1)
/-- `X <- X -8 1; SetZN(X)` (R616). -/
def dexOp (s : State) : State := (s.setX (s.cpu.x - 1)).setZN (s.cpu.x - 1)
/-- `Y <- Y -8 1; SetZN(Y)` (R617). -/
def deyOp (s : State) : State := (s.setY (s.cpu.y - 1)).setZN (s.cpu.y - 1)

/-- `AND ($nn,X)` (R601). -/
def execAndIzx (z : Byte) (s : State) : Result := readMem 6 (resolveIzx z) andA s

/-- `AND $nn` (R601). -/
def execAndZp (z : Byte) (s : State) : Result := readMem 3 (resolveZp z) andA s

/-- `AND #$nn` (R601). -/
def execAndImm (v : Byte) (s : State) : Result := readImm 2 andA v s

/-- `AND $nnnn` (R601). -/
def execAndAbs (a : Word) (s : State) : Result := readMem 4 (resolveAbs a) andA s

/-- `AND ($nn),Y` (R601). -/
def execAndIzy (z : Byte) (s : State) : Result := readMem 5 (resolveIzy true z) andA s

/-- `AND $nn,X` (R601). -/
def execAndZpx (z : Byte) (s : State) : Result := readMem 4 (resolveZpx z) andA s

/-- `AND $nnnn,Y` (R601). -/
def execAndAby (a : Word) (s : State) : Result := readMem 4 (resolveAby true a) andA s

/-- `AND $nnnn,X` (R601). -/
def execAndAbx (a : Word) (s : State) : Result := readMem 4 (resolveAbx true a) andA s

/-- `ORA ($nn,X)` (R602). -/
def execOraIzx (z : Byte) (s : State) : Result := readMem 6 (resolveIzx z) oraA s

/-- `ORA $nn` (R602). -/
def execOraZp (z : Byte) (s : State) : Result := readMem 3 (resolveZp z) oraA s

/-- `ORA #$nn` (R602). -/
def execOraImm (v : Byte) (s : State) : Result := readImm 2 oraA v s

/-- `ORA $nnnn` (R602). -/
def execOraAbs (a : Word) (s : State) : Result := readMem 4 (resolveAbs a) oraA s

/-- `ORA ($nn),Y` (R602). -/
def execOraIzy (z : Byte) (s : State) : Result := readMem 5 (resolveIzy true z) oraA s

/-- `ORA $nn,X` (R602). -/
def execOraZpx (z : Byte) (s : State) : Result := readMem 4 (resolveZpx z) oraA s

/-- `ORA $nnnn,Y` (R602). -/
def execOraAby (a : Word) (s : State) : Result := readMem 4 (resolveAby true a) oraA s

/-- `ORA $nnnn,X` (R602). -/
def execOraAbx (a : Word) (s : State) : Result := readMem 4 (resolveAbx true a) oraA s

/-- `EOR ($nn,X)` (R603). -/
def execEorIzx (z : Byte) (s : State) : Result := readMem 6 (resolveIzx z) eorA s

/-- `EOR $nn` (R603). -/
def execEorZp (z : Byte) (s : State) : Result := readMem 3 (resolveZp z) eorA s

/-- `EOR #$nn` (R603). -/
def execEorImm (v : Byte) (s : State) : Result := readImm 2 eorA v s

/-- `EOR $nnnn` (R603). -/
def execEorAbs (a : Word) (s : State) : Result := readMem 4 (resolveAbs a) eorA s

/-- `EOR ($nn),Y` (R603). -/
def execEorIzy (z : Byte) (s : State) : Result := readMem 5 (resolveIzy true z) eorA s

/-- `EOR $nn,X` (R603). -/
def execEorZpx (z : Byte) (s : State) : Result := readMem 4 (resolveZpx z) eorA s

/-- `EOR $nnnn,Y` (R603). -/
def execEorAby (a : Word) (s : State) : Result := readMem 4 (resolveAby true a) eorA s

/-- `EOR $nnnn,X` (R603). -/
def execEorAbx (a : Word) (s : State) : Result := readMem 4 (resolveAbx true a) eorA s

/-- `BIT $nn` (R604). -/
def execBitZp (z : Byte) (s : State) : Result := readMem 3 (resolveZp z) bitA s

/-- `BIT $nnnn` (R604). -/
def execBitAbs (a : Word) (s : State) : Result := readMem 4 (resolveAbs a) bitA s

/-- `ADC ($nn,X)` (R605). -/
def execAdcIzx (z : Byte) (s : State) : Result := readMem 6 (resolveIzx z) adcA s

/-- `ADC $nn` (R605). -/
def execAdcZp (z : Byte) (s : State) : Result := readMem 3 (resolveZp z) adcA s

/-- `ADC #$nn` (R605). -/
def execAdcImm (v : Byte) (s : State) : Result := readImm 2 adcA v s

/-- `ADC $nnnn` (R605). -/
def execAdcAbs (a : Word) (s : State) : Result := readMem 4 (resolveAbs a) adcA s

/-- `ADC ($nn),Y` (R605). -/
def execAdcIzy (z : Byte) (s : State) : Result := readMem 5 (resolveIzy true z) adcA s

/-- `ADC $nn,X` (R605). -/
def execAdcZpx (z : Byte) (s : State) : Result := readMem 4 (resolveZpx z) adcA s

/-- `ADC $nnnn,Y` (R605). -/
def execAdcAby (a : Word) (s : State) : Result := readMem 4 (resolveAby true a) adcA s

/-- `ADC $nnnn,X` (R605). -/
def execAdcAbx (a : Word) (s : State) : Result := readMem 4 (resolveAbx true a) adcA s

/-- `SBC ($nn,X)` (R607). -/
def execSbcIzx (z : Byte) (s : State) : Result := readMem 6 (resolveIzx z) sbcA s

/-- `SBC $nn` (R607). -/
def execSbcZp (z : Byte) (s : State) : Result := readMem 3 (resolveZp z) sbcA s

/-- `SBC #$nn` (R607). -/
def execSbcImm (v : Byte) (s : State) : Result := readImm 2 sbcA v s

/-- `SBC $nnnn` (R607). -/
def execSbcAbs (a : Word) (s : State) : Result := readMem 4 (resolveAbs a) sbcA s

/-- `SBC ($nn),Y` (R607). -/
def execSbcIzy (z : Byte) (s : State) : Result := readMem 5 (resolveIzy true z) sbcA s

/-- `SBC $nn,X` (R607). -/
def execSbcZpx (z : Byte) (s : State) : Result := readMem 4 (resolveZpx z) sbcA s

/-- `SBC $nnnn,Y` (R607). -/
def execSbcAby (a : Word) (s : State) : Result := readMem 4 (resolveAby true a) sbcA s

/-- `SBC $nnnn,X` (R607). -/
def execSbcAbx (a : Word) (s : State) : Result := readMem 4 (resolveAbx true a) sbcA s

/-- `CMP ($nn,X)` (R609). -/
def execCmpIzx (z : Byte) (s : State) : Result := readMem 6 (resolveIzx z) cmpA s

/-- `CMP $nn` (R609). -/
def execCmpZp (z : Byte) (s : State) : Result := readMem 3 (resolveZp z) cmpA s

/-- `CMP #$nn` (R609). -/
def execCmpImm (v : Byte) (s : State) : Result := readImm 2 cmpA v s

/-- `CMP $nnnn` (R609). -/
def execCmpAbs (a : Word) (s : State) : Result := readMem 4 (resolveAbs a) cmpA s

/-- `CMP ($nn),Y` (R609). -/
def execCmpIzy (z : Byte) (s : State) : Result := readMem 5 (resolveIzy true z) cmpA s

/-- `CMP $nn,X` (R609). -/
def execCmpZpx (z : Byte) (s : State) : Result := readMem 4 (resolveZpx z) cmpA s

/-- `CMP $nnnn,Y` (R609). -/
def execCmpAby (a : Word) (s : State) : Result := readMem 4 (resolveAby true a) cmpA s

/-- `CMP $nnnn,X` (R609). -/
def execCmpAbx (a : Word) (s : State) : Result := readMem 4 (resolveAbx true a) cmpA s

/-- `CPX #$nn` (R610). -/
def execCpxImm (v : Byte) (s : State) : Result := readImm 2 cpxX v s

/-- `CPX $nn` (R610). -/
def execCpxZp (z : Byte) (s : State) : Result := readMem 3 (resolveZp z) cpxX s

/-- `CPX $nnnn` (R610). -/
def execCpxAbs (a : Word) (s : State) : Result := readMem 4 (resolveAbs a) cpxX s

/-- `CPY #$nn` (R611). -/
def execCpyImm (v : Byte) (s : State) : Result := readImm 2 cpyY v s

/-- `CPY $nn` (R611). -/
def execCpyZp (z : Byte) (s : State) : Result := readMem 3 (resolveZp z) cpyY s

/-- `CPY $nnnn` (R611). -/
def execCpyAbs (a : Word) (s : State) : Result := readMem 4 (resolveAbs a) cpyY s

/-- `INC $nn` (R612). -/
def execIncZp (z : Byte) (s : State) : Result := modifyMem 5 (resolveZp z) incResult incFlags s

/-- `INC $nnnn` (R612). -/
def execIncAbs (a : Word) (s : State) : Result := modifyMem 6 (resolveAbs a) incResult incFlags s

/-- `INC $nn,X` (R612). -/
def execIncZpx (z : Byte) (s : State) : Result := modifyMem 6 (resolveZpx z) incResult incFlags s

/-- `INC $nnnn,X` (R612). -/
def execIncAbx (a : Word) (s : State) : Result := modifyMem 7 (resolveAbx false a) incResult incFlags s

/-- `DEC $nn` (R613). -/
def execDecZp (z : Byte) (s : State) : Result := modifyMem 5 (resolveZp z) decResult incFlags s

/-- `DEC $nnnn` (R613). -/
def execDecAbs (a : Word) (s : State) : Result := modifyMem 6 (resolveAbs a) decResult incFlags s

/-- `DEC $nn,X` (R613). -/
def execDecZpx (z : Byte) (s : State) : Result := modifyMem 6 (resolveZpx z) decResult incFlags s

/-- `DEC $nnnn,X` (R613). -/
def execDecAbx (a : Word) (s : State) : Result := modifyMem 7 (resolveAbx false a) decResult incFlags s

/-- `INX` (R614). -/
def execInx (s : State) : Result := implied 2 inxOp s

/-- `INY` (R615). -/
def execIny (s : State) : Result := implied 2 inyOp s

/-- `DEX` (R616). -/
def execDex (s : State) : Result := implied 2 dexOp s

/-- `DEY` (R617). -/
def execDey (s : State) : Result := implied 2 deyOp s

end Sys2Proof.Machine
end

