-- ==== Sys2Proof/Machine/Control.lean ====
section
/-! DEFINITION. Control transfer, the software interrupt and its return, no operation (44_control R800 to R830). -/

namespace Sys2Proof.Machine

/-- `PC <- EA` (R800). -/
def jump (base : Nat) (resolve : State → State) (s : State) : Result :=
  let t := resolve (s.start base)
  .next (t.setPc t.cpu.ea)

/-- The pages of RAM's mirrors are one: whether two CPU addresses reach the same RAM byte (20_memory R204). -/
def sameRamByte (a b : Word) : Bool :=
  decide (a.toNat ≤ 0x1FFF) && decide (b.toNat ≤ 0x1FFF) && a.toNat % 0x800 == b.toNat % 0x800

/-- JSR's high operand byte, which is fetched after the pushes: the byte `hi` in memory before them, unless one of the pushes
wrote that very byte (R801, 60_exceptions R1002; log 5). `last` is its address, `ret` the pushed PC, `sp` the S before. -/
def jsrHigh (last ret : Word) (sp hi : Byte) : Byte :=
  if sameRamByte last (stackAddr (sp - 1)) then loByte ret
  else if sameRamByte last (stackAddr sp) then hiByte ret
  else hi

/-- `Push16(PC_insn + 2); PC <- {hi, lo}` (R801). PC is past the instruction's three bytes here, so the pushed PC is `PC - 1`,
which is also the address of the high operand byte. -/
def jsrOp (a : Word) (s : State) : State :=
  let ret := s.cpu.pc - 1
  let hi := jsrHigh ret ret s.cpu.s (hiByte a)
  ((push16 ret s).setOpenBus hi).setPc (mkWord hi (loByte a))

/-- `PC <- Pull16() +16 1` (R802). -/
def rtsOp (s : State) : State :=
  let r := pull16 s
  r.2.setPc (r.1 + 1)

/-- `BranchIf(cond)` (R810): the page compared is that of the next instruction. -/
def branchIf (base : Nat) (cond : Bool) (d : Byte) (s : State) : Result :=
  let t := s.start base
  let target := t.cpu.pc + sext16 d
  if cond then .next ((t.setInsnExtra (1 + if pageCross t.cpu.pc target then 1 else 0)).setPc target)
  else .next (t.setInsnExtra 0)

/-- The software interrupt: the padding byte is skipped, B = 1 in the pushed P (R820). -/
def brkOp (s : State) : State := enterInterrupt (pushedBreak s.cpu.p) 0xFFFE (s.setPc (s.cpu.pc + 1))

/-- RTI (R821). -/
def rtiOp (s : State) : State := returnFromInterrupt s

/-- Nothing (R830). -/
def nopOp (s : State) : State := s

/-- `JMP $nnnn` (R800). -/
def execJmpAbs (a : Word) (s : State) : Result := jump 3 (resolveAbs a) s

/-- `JMP ($nnnn)` (R800). -/
def execJmpInd (a : Word) (s : State) : Result := jump 5 (resolveInd a) s

/-- `JSR $nnnn` (R801). -/
def execJsr (a : Word) (s : State) : Result := implied 6 (jsrOp a) s

/-- `RTS` (R802). -/
def execRts (s : State) : Result := implied 6 rtsOp s

/-- `BCC label` (R811). -/
def execBcc (d : Byte) (s : State) : Result := branchIf 2 (!flagC s.cpu.p) d s

/-- `BCS label` (R812). -/
def execBcs (d : Byte) (s : State) : Result := branchIf 2 (flagC s.cpu.p) d s

/-- `BEQ label` (R813). -/
def execBeq (d : Byte) (s : State) : Result := branchIf 2 (flagZ s.cpu.p) d s

/-- `BNE label` (R814). -/
def execBne (d : Byte) (s : State) : Result := branchIf 2 (!flagZ s.cpu.p) d s

/-- `BMI label` (R815). -/
def execBmi (d : Byte) (s : State) : Result := branchIf 2 (flagN s.cpu.p) d s

/-- `BPL label` (R816). -/
def execBpl (d : Byte) (s : State) : Result := branchIf 2 (!flagN s.cpu.p) d s

/-- `BVC label` (R817). -/
def execBvc (d : Byte) (s : State) : Result := branchIf 2 (!flagV s.cpu.p) d s

/-- `BVS label` (R818). -/
def execBvs (d : Byte) (s : State) : Result := branchIf 2 (flagV s.cpu.p) d s

/-- `BRK` (R820). -/
def execBrk (s : State) : Result := implied 7 brkOp s

/-- `RTI` (R821). -/
def execRti (s : State) : Result := implied 6 rtiOp s

/-- `NOP` (R830). -/
def execNop (s : State) : Result := implied 2 nopOp s

end Sys2Proof.Machine
end

