-- ==== Sys2Proof/Machine/FlagOps.lean ====
section
/-! DEFINITION. The status-flag instructions (45_flags R900 to R906). -/

namespace Sys2Proof.Machine

/-- `P.C <- 0` (R900). -/
def clcOp (s : State) : State := s.setP (putC false s.cpu.p)
/-- `P.C <- 1` (R901). -/
def secOp (s : State) : State := s.setP (putC true s.cpu.p)
/-- `P.I <- 0` (R902). -/
def cliOp (s : State) : State := s.setP (putI false s.cpu.p)
/-- `P.I <- 1` (R903). -/
def seiOp (s : State) : State := s.setP (putI true s.cpu.p)
/-- `P.D <- 0` (R904). -/
def cldOp (s : State) : State := s.setP (putD false s.cpu.p)
/-- `P.D <- 1` (R905). -/
def sedOp (s : State) : State := s.setP (putD true s.cpu.p)
/-- `P.V <- 0` (R906). -/
def clvOp (s : State) : State := s.setP (putV false s.cpu.p)

/-- `CLC` (R900). -/
def execClc (s : State) : Result := implied 2 clcOp s

/-- `SEC` (R901). -/
def execSec (s : State) : Result := implied 2 secOp s

/-- `CLI` (R902). -/
def execCli (s : State) : Result := implied 2 cliOp s

/-- `SEI` (R903). -/
def execSei (s : State) : Result := implied 2 seiOp s

/-- `CLD` (R904). -/
def execCld (s : State) : Result := implied 2 cldOp s

/-- `SED` (R905). -/
def execSed (s : State) : Result := implied 2 sedOp s

/-- `CLV` (R906). -/
def execClv (s : State) : Result := implied 2 clvOp s

end Sys2Proof.Machine
end

