-- ==== Sys2Proof/Machine/LoadStore.lean ====
section
/-! DEFINITION. Loads and stores (40_addressing_load_store R430 to R435). -/

namespace Sys2Proof.Machine

/-- `A <- M; SetZN(A)` (R430). -/
def loadA (m : Byte) (s : State) : State := (s.setA m).setZN m
/-- `X <- M; SetZN(X)` (R431). -/
def loadX (m : Byte) (s : State) : State := (s.setX m).setZN m
/-- `Y <- M; SetZN(Y)` (R432). -/
def loadY (m : Byte) (s : State) : State := (s.setY m).setZN m

/-- `LDA ($nn,X)` (R430). -/
def execLdaIzx (z : Byte) (s : State) : Result := readMem 6 (resolveIzx z) loadA s

/-- `LDA $nn` (R430). -/
def execLdaZp (z : Byte) (s : State) : Result := readMem 3 (resolveZp z) loadA s

/-- `LDA #$nn` (R430). -/
def execLdaImm (v : Byte) (s : State) : Result := readImm 2 loadA v s

/-- `LDA $nnnn` (R430). -/
def execLdaAbs (a : Word) (s : State) : Result := readMem 4 (resolveAbs a) loadA s

/-- `LDA ($nn),Y` (R430). -/
def execLdaIzy (z : Byte) (s : State) : Result := readMem 5 (resolveIzy true z) loadA s

/-- `LDA $nn,X` (R430). -/
def execLdaZpx (z : Byte) (s : State) : Result := readMem 4 (resolveZpx z) loadA s

/-- `LDA $nnnn,Y` (R430). -/
def execLdaAby (a : Word) (s : State) : Result := readMem 4 (resolveAby true a) loadA s

/-- `LDA $nnnn,X` (R430). -/
def execLdaAbx (a : Word) (s : State) : Result := readMem 4 (resolveAbx true a) loadA s

/-- `LDX #$nn` (R431). -/
def execLdxImm (v : Byte) (s : State) : Result := readImm 2 loadX v s

/-- `LDX $nn` (R431). -/
def execLdxZp (z : Byte) (s : State) : Result := readMem 3 (resolveZp z) loadX s

/-- `LDX $nnnn` (R431). -/
def execLdxAbs (a : Word) (s : State) : Result := readMem 4 (resolveAbs a) loadX s

/-- `LDX $nn,Y` (R431). -/
def execLdxZpy (z : Byte) (s : State) : Result := readMem 4 (resolveZpy z) loadX s

/-- `LDX $nnnn,Y` (R431). -/
def execLdxAby (a : Word) (s : State) : Result := readMem 4 (resolveAby true a) loadX s

/-- `LDY #$nn` (R432). -/
def execLdyImm (v : Byte) (s : State) : Result := readImm 2 loadY v s

/-- `LDY $nn` (R432). -/
def execLdyZp (z : Byte) (s : State) : Result := readMem 3 (resolveZp z) loadY s

/-- `LDY $nnnn` (R432). -/
def execLdyAbs (a : Word) (s : State) : Result := readMem 4 (resolveAbs a) loadY s

/-- `LDY $nn,X` (R432). -/
def execLdyZpx (z : Byte) (s : State) : Result := readMem 4 (resolveZpx z) loadY s

/-- `LDY $nnnn,X` (R432). -/
def execLdyAbx (a : Word) (s : State) : Result := readMem 4 (resolveAbx true a) loadY s

/-- `STA ($nn,X)` (R433). -/
def execStaIzx (z : Byte) (s : State) : Result := writeMem 6 (resolveIzx z) (fun t => t.cpu.a) s

/-- `STA $nn` (R433). -/
def execStaZp (z : Byte) (s : State) : Result := writeMem 3 (resolveZp z) (fun t => t.cpu.a) s

/-- `STA $nnnn` (R433). -/
def execStaAbs (a : Word) (s : State) : Result := writeMem 4 (resolveAbs a) (fun t => t.cpu.a) s

/-- `STA ($nn),Y` (R433). -/
def execStaIzy (z : Byte) (s : State) : Result := writeMem 6 (resolveIzy false z) (fun t => t.cpu.a) s

/-- `STA $nn,X` (R433). -/
def execStaZpx (z : Byte) (s : State) : Result := writeMem 4 (resolveZpx z) (fun t => t.cpu.a) s

/-- `STA $nnnn,Y` (R433). -/
def execStaAby (a : Word) (s : State) : Result := writeMem 5 (resolveAby false a) (fun t => t.cpu.a) s

/-- `STA $nnnn,X` (R433). -/
def execStaAbx (a : Word) (s : State) : Result := writeMem 5 (resolveAbx false a) (fun t => t.cpu.a) s

/-- `STX $nn` (R434). -/
def execStxZp (z : Byte) (s : State) : Result := writeMem 3 (resolveZp z) (fun t => t.cpu.x) s

/-- `STX $nnnn` (R434). -/
def execStxAbs (a : Word) (s : State) : Result := writeMem 4 (resolveAbs a) (fun t => t.cpu.x) s

/-- `STX $nn,Y` (R434). -/
def execStxZpy (z : Byte) (s : State) : Result := writeMem 4 (resolveZpy z) (fun t => t.cpu.x) s

/-- `STY $nn` (R435). -/
def execStyZp (z : Byte) (s : State) : Result := writeMem 3 (resolveZp z) (fun t => t.cpu.y) s

/-- `STY $nnnn` (R435). -/
def execStyAbs (a : Word) (s : State) : Result := writeMem 4 (resolveAbs a) (fun t => t.cpu.y) s

/-- `STY $nn,X` (R435). -/
def execStyZpx (z : Byte) (s : State) : Result := writeMem 4 (resolveZpx z) (fun t => t.cpu.y) s

end Sys2Proof.Machine
end

