-- ==== Sys2Proof/Machine/Shift.lean ====
section
/-! DEFINITION. Shifts and rotates (43_shift_rotate R700 to R703). -/

namespace Sys2Proof.Machine

/-- ASL's result; P is not read (R700). -/
def aslOf (_p m : Byte) : Byte := aslResult m
/-- ASL's flags: C is the old bit 7 (R700). -/
def aslFlags (p m r : Byte) : Byte := shiftFlags (m.getLsbD 7) r p
/-- LSR's result; P is not read (R701). -/
def lsrOf (_p m : Byte) : Byte := lsrResult m
/-- LSR's flags: C is the old bit 0 (R701). -/
def lsrFlags (p m r : Byte) : Byte := shiftFlags (m.getLsbD 0) r p
/-- ROL's result (R702). -/
def rolOf (p m : Byte) : Byte := rolResult (flagC p) m
/-- ROL's flags: C is the old bit 7 (R702). -/
def rolFlags (p m r : Byte) : Byte := shiftFlags (m.getLsbD 7) r p
/-- ROR's result (R703). -/
def rorOf (p m : Byte) : Byte := rorResult (flagC p) m
/-- ROR's flags: C is the old bit 0 (R703). -/
def rorFlags (p m r : Byte) : Byte := shiftFlags (m.getLsbD 0) r p

/-- `ASL $nn` (R700). -/
def execAslZp (z : Byte) (s : State) : Result := modifyMem 5 (resolveZp z) aslOf aslFlags s

/-- `ASL A` (R700). -/
def execAslAcc (s : State) : Result := modifyAcc 2 aslOf aslFlags s

/-- `ASL $nnnn` (R700). -/
def execAslAbs (a : Word) (s : State) : Result := modifyMem 6 (resolveAbs a) aslOf aslFlags s

/-- `ASL $nn,X` (R700). -/
def execAslZpx (z : Byte) (s : State) : Result := modifyMem 6 (resolveZpx z) aslOf aslFlags s

/-- `ASL $nnnn,X` (R700). -/
def execAslAbx (a : Word) (s : State) : Result := modifyMem 7 (resolveAbx false a) aslOf aslFlags s

/-- `LSR $nn` (R701). -/
def execLsrZp (z : Byte) (s : State) : Result := modifyMem 5 (resolveZp z) lsrOf lsrFlags s

/-- `LSR A` (R701). -/
def execLsrAcc (s : State) : Result := modifyAcc 2 lsrOf lsrFlags s

/-- `LSR $nnnn` (R701). -/
def execLsrAbs (a : Word) (s : State) : Result := modifyMem 6 (resolveAbs a) lsrOf lsrFlags s

/-- `LSR $nn,X` (R701). -/
def execLsrZpx (z : Byte) (s : State) : Result := modifyMem 6 (resolveZpx z) lsrOf lsrFlags s

/-- `LSR $nnnn,X` (R701). -/
def execLsrAbx (a : Word) (s : State) : Result := modifyMem 7 (resolveAbx false a) lsrOf lsrFlags s

/-- `ROL $nn` (R702). -/
def execRolZp (z : Byte) (s : State) : Result := modifyMem 5 (resolveZp z) rolOf rolFlags s

/-- `ROL A` (R702). -/
def execRolAcc (s : State) : Result := modifyAcc 2 rolOf rolFlags s

/-- `ROL $nnnn` (R702). -/
def execRolAbs (a : Word) (s : State) : Result := modifyMem 6 (resolveAbs a) rolOf rolFlags s

/-- `ROL $nn,X` (R702). -/
def execRolZpx (z : Byte) (s : State) : Result := modifyMem 6 (resolveZpx z) rolOf rolFlags s

/-- `ROL $nnnn,X` (R702). -/
def execRolAbx (a : Word) (s : State) : Result := modifyMem 7 (resolveAbx false a) rolOf rolFlags s

/-- `ROR $nn` (R703). -/
def execRorZp (z : Byte) (s : State) : Result := modifyMem 5 (resolveZp z) rorOf rorFlags s

/-- `ROR A` (R703). -/
def execRorAcc (s : State) : Result := modifyAcc 2 rorOf rorFlags s

/-- `ROR $nnnn` (R703). -/
def execRorAbs (a : Word) (s : State) : Result := modifyMem 6 (resolveAbs a) rorOf rorFlags s

/-- `ROR $nn,X` (R703). -/
def execRorZpx (z : Byte) (s : State) : Result := modifyMem 6 (resolveZpx z) rorOf rorFlags s

/-- `ROR $nnnn,X` (R703). -/
def execRorAbx (a : Word) (s : State) : Result := modifyMem 7 (resolveAbx false a) rorOf rorFlags s

end Sys2Proof.Machine
end

