-- ==== Sys2Proof/Machine/Transfer.lean ====
section
/-! DEFINITION. Register transfers and stack operations (41_transfer_stack R500 to R509). -/

namespace Sys2Proof.Machine

/-- `X <- A; SetZN(X)` (R500). -/
def taxOp (s : State) : State := (s.setX s.cpu.a).setZN s.cpu.a
/-- `Y <- A; SetZN(Y)` (R501). -/
def tayOp (s : State) : State := (s.setY s.cpu.a).setZN s.cpu.a
/-- `A <- X; SetZN(A)` (R502). -/
def txaOp (s : State) : State := (s.setA s.cpu.x).setZN s.cpu.x
/-- `A <- Y; SetZN(A)` (R503). -/
def tyaOp (s : State) : State := (s.setA s.cpu.y).setZN s.cpu.y
/-- `X <- S; SetZN(X)` (R504). -/
def tsxOp (s : State) : State := (s.setX s.cpu.s).setZN s.cpu.s
/-- `S <- X`, no flag (R505). -/
def txsOp (s : State) : State := s.setS s.cpu.x
/-- `Push8(A)` (R506). -/
def phaOp (s : State) : State := push8 s.cpu.a s
/-- `Push8(P | 0x30)` (R507). -/
def phpOp (s : State) : State := push8 (pushedBreak s.cpu.p) s
/-- `A <- Pull8(); SetZN(A)` (R508). -/
def plaOp (s : State) : State :=
  let r := pull8 s
  (r.2.setA r.1).setZN r.1
/-- `P <- (Pull8() & 0xEF) | 0x20` (R509). -/
def plpOp (s : State) : State :=
  let r := pull8 s
  r.2.setP (pulledP r.1)

/-- `TAX` (R500). -/
def execTax (s : State) : Result := implied 2 taxOp s

/-- `TAY` (R501). -/
def execTay (s : State) : Result := implied 2 tayOp s

/-- `TXA` (R502). -/
def execTxa (s : State) : Result := implied 2 txaOp s

/-- `TYA` (R503). -/
def execTya (s : State) : Result := implied 2 tyaOp s

/-- `TSX` (R504). -/
def execTsx (s : State) : Result := implied 2 tsxOp s

/-- `TXS` (R505). -/
def execTxs (s : State) : Result := implied 2 txsOp s

/-- `PHA` (R506). -/
def execPha (s : State) : Result := implied 3 phaOp s

/-- `PHP` (R507). -/
def execPhp (s : State) : Result := implied 3 phpOp s

/-- `PLA` (R508). -/
def execPla (s : State) : Result := implied 4 plaOp s

/-- `PLP` (R509). -/
def execPlp (s : State) : Result := implied 4 plpOp s

end Sys2Proof.Machine
end

