-- ==== Sys2Proof/Machine/Fetch.lean ====
section
/-! DEFINITION. The CPU step: the stall drain, the interrupt poll, the fetch of an instruction's bytes and its execution
(60_exceptions R1001 to R1003, R1010 to R1013, R1030, R1031), and the placing of an instruction where the next step fetches. -/

namespace Sys2Proof.Machine

/-- `DrainStall()` at the start of a step, whose `cycles` begins at 0 (R1001, R1003). -/
def drainStall (s : State) : State := { s with cpu := { s.cpu with cycles := s.cpu.stallCycles, stallCycles := 0 } }

/-- The IRQ input as the poll sees it: the line, or the latch under IRQ_TRIGGER = edge (R1012). -/
def irqAsserted (s : State) : Bool :=
  match Config.irqTrigger with
  | .level => s.irqLine
  | .edge => s.cpu.irqLatch

/-- Whether the poll takes an IRQ, when no NMI is pending (R1010). -/
def takesIrq (s : State) : Bool := irqAsserted s && !flagI s.cpu.p

/-- The NMI entry, which clears the latch (R1001, R1011, R1013). -/
def nmiEntry (s : State) : State :=
  let t := (enterInterrupt (pushedIrq s.cpu.p) 0xFFFA s).addCycles 7
  { t with cpu := { t.cpu with nmiPending := false } }

/-- The IRQ entry, which clears the latch of IRQ_TRIGGER = edge (R1012, R1013). -/
def irqEntry (s : State) : State :=
  let t := (enterInterrupt (pushedIrq s.cpu.p) 0xFFFE s).addCycles 7
  { t with cpu := { t.cpu with irqLatch := false } }

/-- The operand bytes an opcode's form asks for, fetched in order (40_addressing_load_store R400), and the instruction they
complete. JSR's high byte is fetched here too; its meaning accounts for the pushes that come before it (log 5). -/
def fetchOperand (f : Form) (s : State) : Instr × State :=
  match f with
  | .one i => (i, s)
  | .two mk =>
    let b := fetch8 s
    (mk b.1, b.2)
  | .three mk =>
    let lo := fetch8 s
    let hi := fetch8 lo.2
    (mk (mkWord hi.1 lo.1), hi.2)

/-- The opcode fetch (R1002). -/
def fetchOpcode (s : State) : Byte × State :=
  let op := fetch8 s
  (op.1, op.2.setOpcode op.1)

/-- A fatal condition recorded, and the run ended (R1030). -/
def raiseFatal (r : Fatal) (s : State) : Result := .fault (.fatal r { s with fault := some r })

/-- `ExecuteInstruction()` (R1002, R1031). -/
def executeInstruction (s : State) : Result :=
  let op := fetchOpcode s
  match form op.1 with
  | none => raiseFatal (.unimplementedOpcode op.1 s.cpu.pc) op.2
  | some f =>
    let r := fetchOperand f op.2
    exec r.1 r.2

/-- `step()` of the CPU (R1001), but for its last two lines, which are `finishStep`'s. -/
def cpuStep (s : State) : Result :=
  match s.fault with
  | some r => .fault (.halted r)
  | none =>
    let t := drainStall s
    if t.cpu.nmiPending then .next (nmiEntry t)
    else if takesIrq t then .next (irqEntry t)
    else executeInstruction t

/-- `totalCycles <- totalCycles + cycles` (R1001), then the step's device cycles (70_reset_and_hazards R1310). -/
def finishStep (s : State) : State :=
  runDevices s.cpu.cycles { s with cpu := { s.cpu with totalCycles := s.cpu.totalCycles + s.cpu.cycles } }

/-- One pass of the run loop (70_reset_and_hazards R1310). -/
def machineStep (s : State) : Result :=
  match cpuStep s with
  | .next t => .next (finishStep t)
  | .fault r => .fault r
  | .refused r => .refused r

/-- Whether the three bytes a fetch at PC reads are a `JMP` to PC, and the state that instruction leaves (70_reset_and_hazards
R1321). -/
def selfJump (s : State) : Bool × State :=
  let op := fetch8 s
  let lo := fetch8 op.2
  let hi := fetch8 lo.2
  (op.1 == 0x4C && mkWord hi.1 lo.1 == s.cpu.pc, hi.2.setPc s.cpu.pc)

/-- PC is the address of an idle loop (70_reset_and_hazards R1321): a `JMP` to itself that, executed, is there again. The second
fetch matters only where PC lies outside memory and reads open bus (log 24). -/
def State.atIdleLoop (s : State) : Bool := (selfJump s).1 && (selfJump (selfJump s).2).1

/-- The PRG ROM offset a CPU address `a >= 0x8000` reaches (20_memory R243 to R245). -/
def Cart.prgOffset (c : Cart) (a : Nat) : Nat :=
  match c.mapper with
  | .uxrom bank => if a ≤ 0xBFFF then bank.toNat * 16384 + (a - 0x8000) else (c.prgBanks - 1) * 16384 + (a - 0xC000)
  | .nrom | .cnrom _ => (a - 0x8000) % (16384 * c.prgBanks)

/-- Whether a CPU address reaches a memory cell that holds what is placed there: RAM, PRG RAM where present, PRG ROM. -/
def State.isMemory (s : State) (a : Word) : Bool :=
  decide (a.toNat ≤ 0x1FFF) || decide (0x8000 ≤ a.toNat) || (decide (0x6000 ≤ a.toNat) && s.cart.prgRamPresent)

/-- The byte `v` placed at CPU address `a`: in RAM, in PRG RAM, or in the ROM image, as loading a program places it (log 1). -/
def placeByte (a : Word) (v : Byte) (s : State) : State :=
  if a.toNat ≤ 0x1FFF then { s with ram := s.ram.write (a.toNat % 0x800) v }
  else if 0x8000 ≤ a.toNat then { s with cart := { s.cart with prg := s.cart.prg.write (s.cart.prgOffset a.toNat) v } }
  else { s with cart := { s.cart with prgRam := s.cart.prgRam.write (a.toNat - 0x6000) v } }

/-- The bytes listed placed from address `a` on. -/
def placeBytes (a : Word) : List Byte → State → State
  | [], s => s
  | v :: rest, s => placeBytes (a + 1) rest (placeByte a v s)

/-- What keeps the next step from fetching an instruction, taken away: a fault record, a pending NMI, and IRQ sources (log 1). -/
def clearPending (s : State) : State :=
  { s with
    fault := none
    cpu := { s.cpu with nmiPending := false, irqLatch := s.cpu.irqLatch && flagI s.cpu.p }
    apu := { s.apu with frameIrq := s.apu.frameIrq && flagI s.cpu.p, dmcIrq := s.apu.dmcIrq && flagI s.cpu.p } }

/-- The instruction whose bits are `w` placed where the next step fetches (log 1): at PC, or, where PC does not lie in memory
that can hold it, at 0x0000 with PC set there. -/
def placeInstruction (s : State) (nbits w : Nat) : State :=
  let v := w % 2 ^ nbits
  let t := clearPending s
  let pc := t.cpu.pc
  let t := if t.isMemory pc && t.isMemory (pc + 1) && t.isMemory (pc + 2) then t else t.setPc 0x0000
  placeBytes t.cpu.pc [tableByte v 0, tableByte v 1, tableByte v 2] t

end Sys2Proof.Machine
end

