-- ==== Sys2Proof/Machine/Step.lean ====
section
/-! DEFINITION. The machine's step, and an instruction placed where it fetches. -/

namespace Sys2Proof.Machine

/-- One step of the machine: one CPU step, then its device cycles (60_exceptions R1001, 70_reset_and_hazards R1310). -/
def step (s : State) : Host.Outcome State Fault Refusal := machineStep s

/-- `s` with the instruction of the table word `w` stored where `step` fetches its next instruction. -/
def State.withFetchWord (s : State) (nbits w : Nat) : State := placeInstruction s nbits w

end Sys2Proof.Machine
end

