-- ==== Sys2Proof/Machine/HostCalls.lean ====
section
/-! DEFINITION. The host interface: power-on, reset, the run loop, the controller snapshot, the sample drain, save states and the
CPU record (70_reset_and_hazards R1300 to R1317, 62_apu R1252). -/

namespace Sys2Proof.Machine

/-! Power-on and reset. -/

/-- The mapper of a header's number, its bank registers 0, or none for an unsupported number (20_memory R247, R248). -/
def mapperOf (number : Nat) : Option Mapper :=
  match number with
  | 0 => some .nrom
  | 2 => some (.uxrom 0)
  | 3 => some (.cnrom 0)
  | _ => none

/-- The number of a mapper variant (20_memory R242). -/
def Mapper.number : Mapper → Nat
  | .nrom => 0
  | .uxrom _ => 2
  | .cnrom _ => 3

/-- Registers, devices and controllers at power-on with the memories as they stand; PC through the mapper, `openBus` 0 last
(R1300, 10_state R118). -/
def powerOn (s : State) : State :=
  let t := { s with
    cpu := State.cpuReset
    ppu := { State.ppuReset with oam := s.ppu.oam, palette := s.ppu.palette }
    apu := State.apuReset, pads := State.reset.pads, fault := none }
  let v := read16 0xFFFC t
  (v.2.setPc v.1).setOpenBus 0

/-- The parameter POWER_ON_MEMORY (00_scope R6, D12): the contents of every memory at power-on. -/
structure PowerOnMemory where
  ram : Mem
  vram : Mem
  oam : Mem
  palette : Mem
  prgRam : Mem
  chrRam : Mem
deriving DecidableEq, Repr

/-- POWER_ON_MEMORY with every byte 0, which State.reset takes. DESIGN CHOICE (log 2). -/
def PowerOnMemory.zero : PowerOnMemory := { ram := [], vram := [], oam := [], palette := [], prgRam := [], chrRam := [] }

/-- Every memory at its power-on contents (R1300, D12). -/
def fillMemories (m : PowerOnMemory) (s : State) : State :=
  { s with
    ram := m.ram, vram := m.vram
    ppu := { s.ppu with oam := m.oam, palette := m.palette }
    cart := { s.cart with prgRam := m.prgRam, chrRam := m.chrRam } }

/-- The cartridge of an image (20_memory R240). -/
def cartOf (c : CartImage) (m : Mapper) : Cart :=
  { mapper := m, prgBanks := c.prgBanks, chrBanks := c.chrBanks, mirroring := c.mirroring, battery := c.battery
    prg := c.prg, chr := c.chr, prgRam := [], chrRam := [] }

/-- `insertCartridge(cart)` (R1300): an unsupported mapper records the fault and nothing else (20_memory R248). -/
def insertCartridge (c : CartImage) (m : PowerOnMemory) (s : State) : State :=
  match mapperOf c.mapperNumber with
  | none => { s with fault := some (.unsupportedMapper c.mapperNumber) }
  | some mapper => powerOn (fillMemories m { s with cart := cartOf c mapper })

/-- The PPU after a warm reset (R1302). -/
def Ppu.warmReset (p : Ppu) : Ppu :=
  { p with ctrl := 0, mask := 0, w := false, readBuffer := 0, taddr := 0, fineX := 0, oddFrame := false }

/-- The APU after a warm reset (R1302): `irqInhibit` and the DMC's `irqEnable` are kept, as its table says, where R1303 speaks of
the frame IRQ as enabled and the DMC IRQ as disabled: DEDUCED (log 23). -/
def Apu.warmReset (a : Apu) : Apu :=
  { a with
    pulse1 := a.pulse1.enable false, pulse2 := a.pulse2.enable false
    triangle := { a.triangle.enable false with step := 0 }, noise := a.noise.enable false
    dmc := { a.dmc with bytesRemaining := 0, level := a.dmc.level &&& 1 }
    dmcIrq := false, frameIrq := false, frameCycle := 0 }

/-- `reset()` under RESET_KIND = warm (R1301, R1302, 10_state R119). -/
def warmReset (s : State) : State :=
  let c := s.cpu
  let t := { s with
    cpu := { c with s := c.s - 3, p := pulledP (putBit c.p 2 true), totalCycles := c.totalCycles + 7, stallCycles := 0
                    nmiPending := false, irqLatch := false }
    ppu := s.ppu.warmReset, apu := s.apu.warmReset, fault := none }
  let v := read16 0xFFFC t
  v.2.setPc v.1

/-- `reset()` under RESET_KIND = cold: power-on with the same cartridge and the memory contents kept (R1301). -/
def coldReset (s : State) : State :=
  let m := (mapperOf s.cart.mapper.number).getD s.cart.mapper
  powerOn { s with cart := { s.cart with mapper := m } }

/-- `reset()` (R1301). -/
def resetWith (k : ResetKind) (s : State) : State :=
  match k with
  | .warm => warmReset s
  | .cold => coldReset s

/-! The run loop (R1310, R1311). -/

/-- One pass of `RunLoop` while the loop runs: it leaves at a stop request or a fault, and runs a step otherwise. -/
def loopPass (s : State) : State :=
  if s.host.running = false then s
  else if s.host.stopRequested = true ∨ s.fault ≠ none then { s with host := { s.host with running := false } }
  else
    match step s with
    | .next t => t
    | .fault (.fatal _ t) => { t with host := { t.host with running := false } }
    | .fault (.halted _) => s
    | .refused _ => s

/-- At most `n` passes of `RunLoop`. -/
def runLoop : Nat → State → State
  | 0, s => s
  | n + 1, s => runLoop n (loopPass s)

/-! Samples (62_apu R1252). -/

/-- `drainSamples(n)`: exactly n values, zeros where none is ready; completed samples beyond n are dropped. -/
def drainSamples (n : Nat) (s : State) : List Rat × State :=
  let ready := s.apu.out.ready
  (ready.take n ++ List.replicate (n - ready.length) 0, { s with apu := { s.apu with out := { s.apu.out with ready := [] } } })

/-! Save states (R1315, R1316). -/

/-- A record of a save state with its own version number (R1315). -/
structure Versioned (α : Type) where
  version : Nat
  data : α
deriving DecidableEq, Repr

/-- What decides whether a snapshot fits a cartridge, besides the mapper number (R1316). -/
structure CartShape where
  prgBanks : Nat
  chrBanks : Nat
  prgRamPresent : Bool
  vramSize : Nat
deriving DecidableEq, Repr

/-- A save state: one record per component, `fault` left out (R1315). -/
structure SaveState where
  shape : CartShape
  cpu : Versioned Cpu
  ppu : Versioned Ppu
  apu : Versioned Apu
  cartRam : Versioned (Mem × Mem)
  mapper : Versioned Mapper
  ram : Versioned Mem
  vram : Versioned Mem
  openBus : Versioned Byte
  pads : Versioned Pads
deriving DecidableEq, Repr

/-- A record at the model's version number (log 16). -/
def versioned {α : Type} (d : α) : Versioned α := { version := Config.saveVersion, data := d }

/-- A cartridge's shape (R1316). -/
def Cart.shape (c : Cart) : CartShape :=
  { prgBanks := c.prgBanks, chrBanks := c.chrBanks, prgRamPresent := c.prgRamPresent, vramSize := vramSize c.mirroring }

/-- `createSaveState()` (R1315). -/
def createSaveState (s : State) : SaveState :=
  { shape := s.cart.shape, cpu := versioned s.cpu, ppu := versioned s.ppu, apu := versioned s.apu
    cartRam := versioned (s.cart.prgRam, s.cart.chrRam), mapper := versioned s.cart.mapper
    ram := versioned s.ram, vram := versioned s.vram, openBus := versioned s.openBus, pads := versioned s.pads }

/-- Why the host interface refuses a call (R1311, R1313, R1316; 93_implementation_defined S4 to S6; log 19). -/
inductive HostRefusal where
  /-- The call needs the loop stopped, and it runs. -/
  | loopRunning
  /-- The machine holds a fault record. -/
  | faulted
  /-- The snapshot's cartridge shape is not the inserted cartridge's. -/
  | shapeMismatch
  /-- The sample rate was given before, or is 0 (log 15). -/
  | sampleRateFixed
deriving DecidableEq, Repr

/-- `loadState(s)` (R1316). A snapshot of another shape on a faulted machine meets both refusals of R1316, which gives no order:
DESIGN CHOICE (log 26), the fault. The state is unchanged either way. -/
def loadState (v : SaveState) (s : State) : Except HostRefusal State :=
  if s.fault ≠ none then .error .faulted
  else if v.shape = s.cart.shape ∧ v.mapper.data.number = s.cart.mapper.number then
    .ok { s with
      cpu := v.cpu.data, ppu := v.ppu.data, apu := v.apu.data
      cart := { s.cart with mapper := v.mapper.data, prgRam := v.cartRam.data.1, chrRam := v.cartRam.data.2 }
      ram := v.ram.data, vram := v.vram.data, openBus := v.openBus.data, pads := v.pads.data }
  else .error .shapeMismatch

/-- `setState(r)`: P keeps its storage convention (10_state R107, D59). -/
def setCpuState (r : Cpu) (s : State) : State := { s with cpu := { r with p := pulledP r.p } }

/-! The calls (R1313). -/

/-- A call the host makes between two steps. -/
inductive HostCall where
  | insertCartridge (c : CartImage) (m : PowerOnMemory)
  | start
  | stop
  | reset
  | setButtons (b0 b1 : Buttons)
  | setSampleRate (hz : Nat)
  | drainSamples (n : Nat)
  | takeFrames
  | createSaveState
  | loadState (v : SaveState)
  | getState
  | setState (r : Cpu)
deriving DecidableEq, Repr

/-- What the host gets back. -/
inductive HostReply where
  | done
  | samples (l : List Rat)
  | frames (l : List Frame)
  | snapshot (v : SaveState)
  | cpu (r : Cpu)
  | refused (r : HostRefusal)
deriving DecidableEq, Repr

/-- The calls with a move while the loop runs: `stop`, the controller swap and `drainSamples` (93_implementation_defined S6), and
the taking of what FrameReady handed over (log 13). -/
def HostCall.whileRunning : HostCall → Bool
  | .stop | .setButtons _ _ | .drainSamples _ | .takeFrames => true
  | .insertCartridge _ _ | .start | .reset | .setSampleRate _ | .createSaveState | .loadState _ | .getState | .setState _ => false

/-- What a call does that has a move (R1313): its reply and the state after it. -/
def answerCall (c : HostCall) (s : State) : HostReply × State :=
  match c with
  | .insertCartridge c m => (.done, insertCartridge c m s)
  | .start =>
    if s.fault ≠ none then (.refused .faulted, s)
    else (.done, { s with host := { s.host with running := true, stopRequested := false } })
  | .stop => (.done, { s with host := { s.host with stopRequested := true } })
  | .reset => (.done, resetWith Config.resetKind s)
  | .setButtons b0 b1 => (.done, { s with host := { s.host with buttons0 := b0, buttons1 := b1 } })
  | .setSampleRate hz =>
    if s.host.sampleRate = none ∧ hz ≠ 0 then (.done, { s with host := { s.host with sampleRate := some hz } })
    else (.refused .sampleRateFixed, s)
  | .drainSamples n => (.samples (drainSamples n s).1, (drainSamples n s).2)
  | .takeFrames => (.frames s.host.frames, { s with host := { s.host with frames := [] } })
  | .createSaveState => (.snapshot (createSaveState s), s)
  | .loadState v =>
    match loadState v s with
    | .ok t => (.done, t)
    | .error r => (.refused r, s)
  | .getState => (.cpu s.cpu, s)
  | .setState r => (.done, setCpuState r s)

/-- A call of the host between two steps (R1313): while the loop runs, only some have a move (93_implementation_defined S6; log 19). -/
def hostCall (c : HostCall) (s : State) : HostReply × State :=
  if s.host.running && !c.whileRunning then (.refused .loopRunning, s) else answerCall c s

end Sys2Proof.Machine
end

