-- ==== Sys2Proof/Safety.lean ====
section
/-! DEFINITION. What counts as a good state and as the end of a run: the invariant of the machine, and 70_reset_and_hazards
R1320, R1321. -/

namespace Sys2Proof.Machine

/-! The invariant, one predicate per component. -/

/-- P as 10_state R107 stores it: bit 5 is 1 and bit 4 is 0. -/
abbrev Cpu.Inv (c : Cpu) : Prop := c.p.getLsbD 5 = true ∧ c.p.getLsbD 4 = false

/-- The PPU's counters and buffers in the ranges of 61_ppu R1100, its memories canonical, palette and picture of 6 bits
(20_memory R255). -/
abbrev Ppu.Inv (p : Ppu) : Prop :=
  p.dot ≤ 340 ∧ p.scanline ≤ 261 ∧ p.sprCount ≤ 8 ∧ Mem.wf 256 p.oam = true ∧ Mem.wf6 32 p.palette = true ∧ p.framebuffer.wf = true

/-- The APU's counters in the ranges of 62_apu R1200 and R1211, the noise shifter never 0 (R1230), and the DMC reading only the
upper half of the CPU's space (R1239). -/
abbrev Apu.Inv (a : Apu) : Prop :=
  a.frameCycle < (if a.seqMode then 37282 else 29830) ∧ a.noise.lfsr ≠ 0 ∧ 1 ≤ a.dmc.bitsRemaining ∧ a.dmc.bitsRemaining ≤ 8 ∧
    0x8000 ≤ a.dmc.currentAddr.toNat

/-- A mapper's bank register is below its bank count (20_memory R244, R245). -/
abbrev Cart.bankInv (c : Cart) : Prop :=
  match c.mapper with
  | .nrom => True
  | .uxrom bank => bank.toNat < c.prgBanks
  | .cnrom bank => bank.toNat < max c.chrBanks 1

/-- A cartridge of 20_memory R240 and R241: its ROM and RAM canonical and within their sizes, its bank register in range. -/
abbrev Cart.Inv (c : Cart) : Prop :=
  1 ≤ c.prgBanks ∧ Mem.wf (16384 * c.prgBanks) c.prg = true ∧ Mem.wf (8192 * c.chrBanks) c.chr = true ∧ Mem.wf 8192 c.prgRam = true ∧
    Mem.wf 8192 c.chrRam = true ∧ c.bankInv

/-- The machine's invariant. -/
structure State.Inv (s : State) : Prop where
  cpu : s.cpu.Inv
  ppu : s.ppu.Inv
  apu : s.apu.Inv
  cart : s.cart.Inv
  ram : Mem.wf 2048 s.ram = true
  vram : Mem.wf (vramSize s.cart.mirroring) s.vram = true

/-- What the cartridge never changes after insertion (20_memory R240). -/
def Cart.image (c : Cart) : Nat × Nat × Nat × Mirroring × Bool × Mem × Mem :=
  (c.mapper.number, c.prgBanks, c.chrBanks, c.mirroring, c.battery, c.prg, c.chr)

/-! The end of a run. -/

/-- How a run has ended (R1320). -/
inductive RunEnd where
  | stopped
  | faulted
  | idle
deriving DecidableEq, Repr

/-- Whether a state at a step boundary ends a run, and how (R1320): a fault first, since it is never a normal end. A boundary
with a stop request at an idle loop meets two of R1320's ways and the rule gives no order: DESIGN CHOICE (log 22), stopped. -/
def State.runEnd (s : State) : Option RunEnd :=
  if s.fault ≠ none then some .faulted
  else if s.host.stopRequested then some .stopped
  else if s.atIdleLoop then some .idle
  else none

end Sys2Proof.Machine
end

