-- ==== Sys2Proof/Claims.lean ====
section
/-! DEFINITION. The vocabulary of the statements: the flags of P by name, an opcode-table row, an instruction's operand as the
addressing-mode rules give it (40_addressing_load_store R410 to R422), what a claim may read, and what is left alone. -/

namespace Sys2Proof.Claims

open Sys2Proof.Machine

/-! P by name. -/

/-- The eight bits of P (10_state R106). -/
structure Flags where
  n : Bool
  v : Bool
  u : Bool
  b : Bool
  d : Bool
  i : Bool
  z : Bool
  c : Bool
deriving DecidableEq, Repr

/-- The bits of a P (10_state R106). -/
def flags (p : Byte) : Flags :=
  { n := p.getLsbD 7, v := p.getLsbD 6, u := p.getLsbD 5, b := p.getLsbD 4, d := p.getLsbD 3, i := p.getLsbD 2, z := p.getLsbD 1, c := p.getLsbD 0 }

/-- The P of eight bits (10_state R106). -/
def Flags.pack (f : Flags) : Byte :=
  bitAt 7 f.n ||| bitAt 6 f.v ||| bitAt 5 f.u ||| bitAt 4 f.b ||| bitAt 3 f.d ||| bitAt 2 f.i ||| bitAt 1 f.z ||| bitAt 0 f.c

/-- P after `SetZN(r)`: N is bit 7 of `r`, Z says that `r` is 0, every other bit is kept (00_scope R11). -/
def znOf (r p : Byte) : Byte := ({ flags p with n := r.getLsbD 7, z := r == 0 } : Flags).pack

/-! Encodings. -/

/-- A row of an instruction rule's encoding table: opcode, mode, bytes, cycles, and whether a page cross adds a cycle. -/
structure Row where
  opcode : Byte
  mode : Mode
  bytes : Nat
  cycles : Nat
  cross : Bool
deriving DecidableEq, Repr

/-- The opcode byte of an instruction. -/
def opcodeOf (i : Instr) : Byte := (encode i).headD 0

/-- The row of an instruction. -/
def rowOf (i : Instr) : Row := { opcode := opcodeOf i, mode := i.mode, bytes := i.length, cycles := i.cycles, cross := i.penalty }

/-- The rows are exactly those of the mnemonic's instructions, and each row's opcode byte decodes to one of them. -/
def Encodes (m : Mnemonic) (rows : List Row) : Prop :=
  (∀ i : Instr, i.mnemonic = m → rowOf i ∈ rows) ∧
    ∀ r ∈ rows, (decodeTableWord 8 r.opcode.toNat).map (fun i => (i.mnemonic, rowOf i)) = some (m, r)

/-! Operands. In a state where `exec` starts, PC is past the instruction's bytes and `i.operand` is the field they hold
(40_addressing_load_store R400, 30_encoding R303). -/

/-- The operand byte of format F2. -/
def op8 (i : Instr) : Byte := BitVec.ofNat 8 i.operand

/-- The operand word of format F3. -/
def op16 (i : Instr) : Word := BitVec.ofNat 16 i.operand

/-- The address before Y or X is added to a 16-bit base, and the state after the pointer's reads (R413 to R421). -/
def baseAddress (i : Instr) (s : State) : Word × State :=
  match i.mode with
  | .zeroPage => (zext16 (op8 i), s)
  | .zeroPageX => (zext16 (op8 i + s.cpu.x), s)
  | .zeroPageY => (zext16 (op8 i + s.cpu.y), s)
  | .absolute | .absoluteX | .absoluteY => (op16 i, s)
  | .indirect => read16Wrap (op16 i) s
  | .indexedIndirectX => read16Zp (op8 i + s.cpu.x) s
  | .indirectIndexedY => read16Zp (op8 i) s
  | .implied | .accumulator | .immediate | .relative => (0, s)

/-- `EA` (R413 to R421). -/
def address (i : Instr) (s : State) : Word :=
  match i.mode with
  | .absoluteX => (baseAddress i s).1 + zext16 s.cpu.x
  | .absoluteY | .indirectIndexedY => (baseAddress i s).1 + zext16 s.cpu.y
  | _ => (baseAddress i s).1

/-- The state after the address is resolved: the pointer modes have read two bytes, and nothing else has changed. -/
def resolved (i : Instr) (s : State) : State := (baseAddress i s).2

/-- `modeExtra`: 1 when the row carries the penalty and the base and `EA` lie in different pages (R402). -/
def modeCycles (i : Instr) (s : State) : Nat := if i.penalty && pageCross (baseAddress i s).1 (address i s) then 1 else 0

/-- `cycles` after the instruction, before any branch cycles: what it was, the row's count and `modeExtra` (60_exceptions R1002). -/
def spent (i : Instr) (s : State) : Nat := s.cpu.cycles + i.cycles + modeCycles i s

/-- The operand `M` and the state after it is read (R401): the fetched byte in Immediate mode, A in Accumulator mode, one bus
read of `EA` otherwise. -/
def operandM (i : Instr) (s : State) : Byte × State :=
  match i.mode with
  | .immediate => (op8 i, s)
  | .accumulator => (s.cpu.a, s)
  | _ => busRead (address i s) (resolved i s)

/-- The state in which an instruction's write is made: all its cycles are counted (61_ppu R1150's `t`). -/
def counted (i : Instr) (s t : State) : State := { t with cpu := { t.cpu with cycles := spent i s } }

/-! What a claim reads, and frames. -/

/-- A state without the four fields that no claim may read (10_state R114). -/
def visible (s : State) : State := { s with cpu := { s.cpu with opcode := 0, ea := 0, modeExtra := 0, insnExtra := 0 } }

/-- The lowest PPU address that reaches the same cell: 14 bits (20_memory R250), 0x3000 on as 0x2000 on (R252), the nametables
by the mirroring (R253, R257), the palette by R254. -/
def ppuHome (m : Mirroring) (a : Nat) : Nat :=
  let a := a % 0x4000
  let off := (a - 0x2000) % 0x1000
  if a < 0x2000 then a
  else if a < 0x3F00 then
    match m with
    | .horizontal => 0x2000 + off / 0x800 * 0x800 + off % 0x400
    | .vertical => 0x2000 + off % 0x800
    | .singleScreen => 0x2000 + off % 0x400
    | .fourScreen => 0x2000 + off
  else if a % 4 = 0 then 0x3F00 + a % 0x10
  else 0x3F00 + a % 0x20

/-- The byte of memory at a CPU address: RAM, PRG RAM where present, PRG ROM. A device port holds none. -/
def memoryAt (s : State) (a : Word) : Option Byte := if s.isMemory a then some (busRead a s).1 else none

/-- Every byte of memory reads as before: CPU memory, the PPU's space, OAM. -/
def MemoryKept (s t : State) : Prop :=
  (∀ a, memoryAt t a = memoryAt s a) ∧ (∀ a, ppuRead t a = ppuRead s a) ∧ ∀ k, t.ppu.oam.read k = s.ppu.oam.read k

/-- The addresses whose byte a store to `ea` can change: the RAM byte and its mirrors, the PRG RAM byte, and under variant 2
the switched bank (20_memory R204, R244, R246). -/
def touches (s : State) (ea a : Word) : Bool :=
  sameRamByte ea a || (decide (0x6000 ≤ ea.toNat) && decide (ea.toNat ≤ 0x7FFF) && ea == a) ||
    (decide (0x8000 ≤ ea.toNat) && decide (0x8000 ≤ a.toNat) && decide (a.toNat ≤ 0xBFFF) && decide (s.cart.mapper.number = 2))

/-- Every byte of CPU memory outside those a store to `ea` can change reads as before, and so do the PPU's space and OAM when
`ea` is not a port or a mapper register. -/
def StoreKept (ea : Word) (s t : State) : Prop :=
  (∀ a, touches s ea a = false → memoryAt t a = memoryAt s a) ∧
    (ea.toNat ≤ 0x1FFF ∨ (0x6000 ≤ ea.toNat ∧ ea.toNat ≤ 0x7FFF) →
      (∀ a, ppuRead t a = ppuRead s a) ∧ ∀ k, t.ppu.oam.read k = s.ppu.oam.read k)

/-- Every byte of CPU memory outside the `n` bytes pushed from S down reads as before, and so do the PPU's space and OAM. -/
def PushKept (n : Nat) (s t : State) : Prop :=
  (∀ a, (∀ k < n, sameRamByte (stackAddr (s.cpu.s - BitVec.ofNat 8 k)) a = false) → memoryAt t a = memoryAt s a) ∧
    (∀ a, ppuRead t a = ppuRead s a) ∧ ∀ k, t.ppu.oam.read k = s.ppu.oam.read k

/-- The instruction completes in the state `e` and stores nothing: every byte of memory reads as before. -/
def CompletesQuietly (i : Instr) (s e : State) : Prop := ∃ t, exec i s = .next t ∧ visible t = visible e ∧ MemoryKept s t

/-- The instruction completes in the state `e`; from a good state, every byte of memory outside the store to `ea` reads as
before. -/
def CompletesStoring (i : Instr) (ea : Word) (s e : State) : Prop :=
  ∃ t, exec i s = .next t ∧ visible t = visible e ∧ (s.Inv → StoreKept ea s t)

/-- The instruction completes in the state `e`; from a good state, every byte of memory outside its `n` pushes reads as
before. -/
def CompletesPushing (i : Instr) (n : Nat) (s e : State) : Prop :=
  ∃ t, exec i s = .next t ∧ visible t = visible e ∧ (s.Inv → PushKept n s t)

/-! What the arithmetic and shift rules compute. -/

/-- `A + M + P.C` and the P it leaves (42_logic_arith R605): the pair of A and P. -/
def addWithCarry (a m p : Byte) : Byte × Byte :=
  let sum := a.toNat + m.toNat + (flags p).c.toNat
  let r := BitVec.ofNat 8 sum
  (r, ({ flags p with
    n := r.getLsbD 7, v := (~~~(a ^^^ m) &&& (a ^^^ r)) &&& 0x80 != 0, z := r == 0, c := decide (0xFF < sum) } : Flags).pack)

/-- P after `Compare(R, M)` (42_logic_arith R608). -/
def comparedP (r m p : Byte) : Byte :=
  ({ flags p with n := (r - m).getLsbD 7, z := decide (r = m), c := decide (m.toNat ≤ r.toNat) } : Flags).pack

/-- A shift's or rotate's result and the bit it moves into C, of the operand and the old C (43_shift_rotate R700 to R703). -/
def shifted (m : Mnemonic) (v : Byte) (c : Bool) : Byte × Bool :=
  match m with
  | .asl => (v <<< 1, v.getLsbD 7)
  | .lsr => (v >>> 1, v.getLsbD 0)
  | .rol => ((v <<< 1) ||| bitAt 0 c, v.getLsbD 7)
  | .ror => ((v >>> 1) ||| bitAt 7 c, v.getLsbD 0)
  | _ => (v, c)

/-- P after a shift or rotate: C the bit moved out, N and Z of the result (43_shift_rotate R700 to R703). -/
def shiftedP (m : Mnemonic) (v p : Byte) : Byte :=
  let r := shifted m v (flags p).c
  ({ flags p with n := r.1.getLsbD 7, z := r.1 == 0, c := r.2 } : Flags).pack

/-! The stack and the vectors. -/

/-- The byte of page 1 that lies `k` above S, wrapping in the page (10_state R104). -/
def stackByte (s : State) (k : Nat) : Byte := s.ram.read (0x100 + (s.cpu.s + BitVec.ofNat 8 k).toNat)

/-- A RAM after the bytes listed are pushed, the first at `sp`, each next one below, wrapping in page 1 (10_state R104). -/
def pushed (m : Mem) (sp : Byte) : List Byte → Mem
  | [] => m
  | v :: rest => pushed (m.write (0x100 + sp.toNat) v) (sp - 1) rest

/-- The word at a vector of the program space (20_memory R213). -/
def vectorWord (s : State) (v : Nat) : Word := mkWord (s.cart.prgByte (v + 1)) (s.cart.prgByte v)

/-- The state an interrupt entry leaves (60_exceptions R1013): PC and P pushed, I set, PC from the vector, 7 cycles beside the
stall cycles owed. -/
def entered (savedPc : Word) (savedP : Byte) (vector : Nat) (s : State) : State :=
  { s with
    ram := pushed s.ram s.cpu.s [hiByte savedPc, loByte savedPc, savedP]
    openBus := s.cart.prgByte (vector + 1)
    cpu := { s.cpu with s := s.cpu.s - 3, p := ({ flags s.cpu.p with i := true } : Flags).pack, pc := vectorWord s vector } }

/-- The bytes at PC, fetched one by one, and the state after the last (30_encoding R300, 00_scope R11). -/
def fetchBytes : Nat → State → List Byte × State
  | 0, s => ([], s)
  | n + 1, s =>
    let b := fetch8 s
    let r := fetchBytes n b.2
    (b.1 :: r.1, r.2)

/-- No interrupt is taken at this step boundary (60_exceptions R1010), and the machine may run (R1030). -/
def runsInstruction (s : State) : Prop :=
  s.fault = none ∧ s.cpu.nmiPending = false ∧ (s.irqLine = false ∨ (flags s.cpu.p).i = true)

end Sys2Proof.Claims
end

