-- ==== Sys2Proof/Certificates/Slice0/Obligations.lean ====
section
/-! DEFINITION. The statements for the provers, each from the numbered rules of spec/ that its docstring names. The vocabulary is
Sys2Proof/Claims.lean's. -/

namespace Sys2Proof.Claims

open Sys2Proof.Machine

/-- The 105 unassigned opcode bytes, row by row of 30_encoding R306. -/
def unassigned : List Byte :=
  [0x02, 0x03, 0x04, 0x07, 0x0B, 0x0C, 0x0F] ++
  [0x12, 0x13, 0x14, 0x17, 0x1A, 0x1B, 0x1C, 0x1F] ++
  [0x22, 0x23, 0x27, 0x2B, 0x2F] ++
  [0x32, 0x33, 0x34, 0x37, 0x3A, 0x3B, 0x3C, 0x3F] ++
  [0x42, 0x43, 0x44, 0x47, 0x4B, 0x4F] ++
  [0x52, 0x53, 0x54, 0x57, 0x5A, 0x5B, 0x5C, 0x5F] ++
  [0x62, 0x63, 0x64, 0x67, 0x6B, 0x6F] ++
  [0x72, 0x73, 0x74, 0x77, 0x7A, 0x7B, 0x7C, 0x7F] ++
  [0x80, 0x82, 0x83, 0x87, 0x89, 0x8B, 0x8F] ++
  [0x92, 0x93, 0x97, 0x9B, 0x9C, 0x9E, 0x9F] ++
  [0xA3, 0xA7, 0xAB, 0xAF] ++
  [0xB2, 0xB3, 0xB7, 0xBB, 0xBF] ++
  [0xC2, 0xC3, 0xC7, 0xCB, 0xCF] ++
  [0xD2, 0xD3, 0xD4, 0xD7, 0xDA, 0xDB, 0xDC, 0xDF] ++
  [0xE2, 0xE3, 0xE7, 0xEB, 0xEF] ++
  [0xF2, 0xF3, 0xF4, 0xF7, 0xFA, 0xFB, 0xFC, 0xFF]

/-- Bit 0 of the `k`-th read of 0x4016 (20_memory R273). -/
def readPort : Nat → State → Bool
  | 0, s => (busRead 0x4016 s).1.getLsbD 0
  | k + 1, s => readPort k (busRead 0x4016 s).2

end Sys2Proof.Claims

open Sys2Proof Sys2Proof.Machine Sys2Proof.Claims

/-- Encoding (30_encoding R300 to R305): no bit of any of the 151 forms is dropped. -/
def Obligations.DecodeOfEncode : Prop :=
  ∀ (i : Instr) (rest : List Byte), decode (encode i ++ rest) = .ok (i, rest)

/-- The other direction: each word has one meaning (30_encoding R301, R305). -/
def Obligations.EncodeOfDecode : Prop :=
  ∀ (bytes rest : List Byte) (i : Instr), decode bytes = .ok (i, rest) → encode i ++ rest = bytes

/-- The formats F1, F2 and F3 and the lengths of R301; the opcode byte alone selects the form (R300). -/
def Obligations.OpcodeSelectsForm : Prop :=
  (∀ i : Instr, encode i = opcodeOf i :: (List.range (i.length - 1)).map (fun k => BitVec.ofNat 8 (i.operand / 256 ^ k))) ∧
  (∀ i : Instr, i.length =
    match i.mode with
    | .implied | .accumulator => 1
    | .immediate | .zeroPage | .zeroPageX | .zeroPageY | .relative | .indexedIndirectX | .indirectIndexedY => 2
    | .absolute | .absoluteX | .absoluteY | .indirect => 3) ∧
  ∀ i j : Instr, opcodeOf i = opcodeOf j → i.mnemonic = j.mnemonic ∧ i.mode = j.mode ∧ i.length = j.length

/-- A few words written out from R301 and R305. -/
def Obligations.SampleWords : Prop :=
  decode [0xBD, 0x34, 0x12] = .ok (.ldaAbx 0x1234, []) ∧ decode [0x96, 0x10] = .ok (.stxZpy 0x10, []) ∧
  decode [0xBA] = .ok (.tsx, []) ∧ decode [0x28] = .ok (.plp, []) ∧
  decode [0x71, 0x80] = .ok (.adcIzy 0x80, []) ∧ decode [0xC0, 0xFF] = .ok (.cpyImm 0xFF, []) ∧
  decode [0x7E, 0xFF, 0x02] = .ok (.rorAbx 0x02FF, []) ∧ decode [0x6C, 0xFF, 0x02] = .ok (.jmpInd 0x02FF, []) ∧
  decode [0xD0, 0xFC] = .ok (.bne 0xFC, []) ∧ decode [0xB8, 0xEA] = .ok (.clv, [0xEA])

/-- The one statement through which the per-instruction statements reach a run (R1001, R1002). `drainStall` and `finishStep` are the rest of the step (R1003, R1310). -/
def Obligations.StepRunsDecodedInstruction : Prop :=
  ∀ (i : Instr) (s : State), runsInstruction s → decode (fetchBytes i.length (drainStall s)).1 = .ok (i, []) →
    step s =
      match exec i ((fetchBytes i.length (drainStall s)).2.setOpcode (opcodeOf i)) with
      | .next t => .next (finishStep t)
      | .fault r => .fault r
      | .refused r => .refused r

/-- R1013, in the places R1001 and R1010 give it: NMI first, then an unmasked IRQ, after the stall of R1003. The device cycles follow (`finishStep`). That the IRQ entry leaves `irqLatch` false is the model's choice (log 9). -/
def Obligations.NmiEntry : Prop :=
  ∀ s : State, s.fault = none →
    let t := entered s.cpu.pc (({ flags s.cpu.p with u := true, b := false } : Flags).pack) 0xFFFA s
    let u := entered s.cpu.pc (({ flags s.cpu.p with u := true, b := false } : Flags).pack) 0xFFFE s
    (s.cpu.nmiPending = true →
      step s = .next (finishStep { t with cpu := { t.cpu with cycles := s.cpu.stallCycles + 7, stallCycles := 0, nmiPending := false } })) ∧
    (s.cpu.nmiPending = false → s.irqLine = true → (flags s.cpu.p).i = false →
      step s = .next (finishStep { u with cpu := { u.cpu with cycles := s.cpu.stallCycles + 7, stallCycles := 0, irqLatch := false } })) ∧
    (s.Inv → PushKept 3 s t ∧ PushKept 3 s u)

/-- R306 and R1031. -/
def Obligations.UnassignedOpcodeIsFatal : Prop :=
  (∀ op : Byte, form op = none ↔ op ∈ unassigned) ∧ unassigned.length = 105 ∧
  ∀ s : State, runsInstruction s →
    let op := busRead s.cpu.pc (drainStall s)
    op.1 ∈ unassigned →
      ∃ t, step s = .fault (.fatal (.unimplementedOpcode op.1 s.cpu.pc) t) ∧
        visible t = visible { op.2 with
          fault := some (.unimplementedOpcode op.1 s.cpu.pc), cpu := { op.2.cpu with pc := s.cpu.pc + 1 } } ∧
        t.cpu.pc = s.cpu.pc + 1 ∧ t.openBus = op.1 ∧ t.cpu.totalCycles = s.cpu.totalCycles

/-- R1030, R1032 and R117: the fault record is kept, and no other synchronous exception exists. -/
def Obligations.NoOtherStop : Prop :=
  ∀ s : State,
    (∀ r, s.fault = some r → step s = .fault (.halted r)) ∧
    (s.fault = none →
      (∃ t, step s = .next t ∧ t.fault = none) ∨
        ∃ op pc t, step s = .fault (.fatal (.unimplementedOpcode op pc) t) ∧ op ∈ unassigned ∧
          t.fault = some (.unimplementedOpcode op pc))

/-- R1032 and R1040: every instruction is available at all times and none faults. R1011: none clears the NMI latch. R240: the configuration and ROM of the cartridge never change after insertion, and R1040: ROM is read-only by construction. R1001: the step, not the instruction, adds to `totalCycles`. -/
def Obligations.EveryInstructionCompletes : Prop :=
  ∀ (i : Instr) (s : State), ∃ t, exec i s = .next t ∧ t.fault = s.fault ∧ t.cart.image = s.cart.image ∧
    (s.cpu.nmiPending = true → t.cpu.nmiPending = true) ∧ t.cpu.totalCycles = s.cpu.totalCycles

/-- R1001: the return value is the stall and the entry's or the instruction's cycles; the shortest row has 2 and the longest costs 7 (R1340). -/
def Obligations.StepCycles : Prop :=
  ∀ s t : State, step s = .next t →
    t.cpu.totalCycles = s.cpu.totalCycles + t.cpu.cycles ∧
      s.cpu.stallCycles + 2 ≤ t.cpu.cycles ∧ t.cpu.cycles ≤ s.cpu.stallCycles + 7

/-- R430 to R432: `R <- M; SetZN(R)`, with the rules' encoding tables. `operandM` makes the operand's reads (R401). -/
def Obligations.LoadInstructions : Prop :=
  Encodes .lda
    [⟨0xA9, .immediate, 2, 2, false⟩, ⟨0xA5, .zeroPage, 2, 3, false⟩, ⟨0xB5, .zeroPageX, 2, 4, false⟩,
      ⟨0xAD, .absolute, 3, 4, false⟩, ⟨0xBD, .absoluteX, 3, 4, true⟩, ⟨0xB9, .absoluteY, 3, 4, true⟩,
      ⟨0xA1, .indexedIndirectX, 2, 6, false⟩, ⟨0xB1, .indirectIndexedY, 2, 5, true⟩] ∧
  Encodes .ldx
    [⟨0xA2, .immediate, 2, 2, false⟩, ⟨0xA6, .zeroPage, 2, 3, false⟩, ⟨0xB6, .zeroPageY, 2, 4, false⟩,
      ⟨0xAE, .absolute, 3, 4, false⟩, ⟨0xBE, .absoluteY, 3, 4, true⟩] ∧
  Encodes .ldy
    [⟨0xA0, .immediate, 2, 2, false⟩, ⟨0xA4, .zeroPage, 2, 3, false⟩, ⟨0xB4, .zeroPageX, 2, 4, false⟩,
      ⟨0xAC, .absolute, 3, 4, false⟩, ⟨0xBC, .absoluteX, 3, 4, true⟩] ∧
  ∀ (i : Instr) (s : State),
    (i.mnemonic = .lda →
      CompletesQuietly i s { (operandM i s).2 with cpu := { s.cpu with a := (operandM i s).1, p := znOf (operandM i s).1 s.cpu.p, cycles := spent i s } }) ∧
    (i.mnemonic = .ldx →
      CompletesQuietly i s { (operandM i s).2 with cpu := { s.cpu with x := (operandM i s).1, p := znOf (operandM i s).1 s.cpu.p, cycles := spent i s } }) ∧
    (i.mnemonic = .ldy →
      CompletesQuietly i s { (operandM i s).2 with cpu := { s.cpu with y := (operandM i s).1, p := znOf (operandM i s).1 s.cpu.p, cycles := spent i s } })

/-- R433 to R435: `MemWrite(EA, 1, R)`, with the rules' encoding tables. -/
def Obligations.StoreInstructions : Prop :=
  Encodes .sta
    [⟨0x85, .zeroPage, 2, 3, false⟩, ⟨0x95, .zeroPageX, 2, 4, false⟩, ⟨0x8D, .absolute, 3, 4, false⟩,
      ⟨0x9D, .absoluteX, 3, 5, false⟩, ⟨0x99, .absoluteY, 3, 5, false⟩, ⟨0x81, .indexedIndirectX, 2, 6, false⟩,
      ⟨0x91, .indirectIndexedY, 2, 6, false⟩] ∧
  Encodes .stx
    [⟨0x86, .zeroPage, 2, 3, false⟩, ⟨0x96, .zeroPageY, 2, 4, false⟩, ⟨0x8E, .absolute, 3, 4, false⟩] ∧
  Encodes .sty
    [⟨0x84, .zeroPage, 2, 3, false⟩, ⟨0x94, .zeroPageX, 2, 4, false⟩, ⟨0x8C, .absolute, 3, 4, false⟩] ∧
  ∀ (i : Instr) (s : State),
    (i.mnemonic = .sta →
      CompletesStoring i (address i s) s (busWrite (address i s) s.cpu.a (counted i s (resolved i s)))) ∧
    (i.mnemonic = .stx →
      CompletesStoring i (address i s) s (busWrite (address i s) s.cpu.x (counted i s (resolved i s)))) ∧
    (i.mnemonic = .sty →
      CompletesStoring i (address i s) s (busWrite (address i s) s.cpu.y (counted i s (resolved i s))))

/-- R500 to R505. -/
def Obligations.TransferInstructions : Prop :=
  Encodes .tax
    [⟨0xAA, .implied, 1, 2, false⟩] ∧
  Encodes .tay
    [⟨0xA8, .implied, 1, 2, false⟩] ∧
  Encodes .txa
    [⟨0x8A, .implied, 1, 2, false⟩] ∧
  Encodes .tya
    [⟨0x98, .implied, 1, 2, false⟩] ∧
  Encodes .tsx
    [⟨0xBA, .implied, 1, 2, false⟩] ∧
  Encodes .txs
    [⟨0x9A, .implied, 1, 2, false⟩] ∧
  ∀ (i : Instr) (s : State),
    (i.mnemonic = .tax →
      CompletesQuietly i s { s with cpu := { s.cpu with x := s.cpu.a, p := znOf s.cpu.a s.cpu.p, cycles := spent i s } }) ∧
    (i.mnemonic = .tay →
      CompletesQuietly i s { s with cpu := { s.cpu with y := s.cpu.a, p := znOf s.cpu.a s.cpu.p, cycles := spent i s } }) ∧
    (i.mnemonic = .txa →
      CompletesQuietly i s { s with cpu := { s.cpu with a := s.cpu.x, p := znOf s.cpu.x s.cpu.p, cycles := spent i s } }) ∧
    (i.mnemonic = .tya →
      CompletesQuietly i s { s with cpu := { s.cpu with a := s.cpu.y, p := znOf s.cpu.y s.cpu.p, cycles := spent i s } }) ∧
    (i.mnemonic = .tsx →
      CompletesQuietly i s { s with cpu := { s.cpu with x := s.cpu.s, p := znOf s.cpu.s s.cpu.p, cycles := spent i s } }) ∧
    (i.mnemonic = .txs →
      CompletesQuietly i s { s with cpu := { s.cpu with s := s.cpu.x, cycles := spent i s } })

/-- R506 and R507. -/
def Obligations.PushInstructions : Prop :=
  Encodes .pha
    [⟨0x48, .implied, 1, 3, false⟩] ∧
  Encodes .php
    [⟨0x08, .implied, 1, 3, false⟩] ∧
  ∀ (i : Instr) (s : State),
    (i.mnemonic = .pha →
      CompletesPushing i 1 s { s with
        ram := s.ram.write (0x100 + s.cpu.s.toNat) (s.cpu.a)
        cpu := { s.cpu with s := s.cpu.s - 1, cycles := spent i s } }) ∧
    (i.mnemonic = .php →
      CompletesPushing i 1 s { s with
        ram := s.ram.write (0x100 + s.cpu.s.toNat) (s.cpu.p ||| 0x30)
        cpu := { s.cpu with s := s.cpu.s - 1, cycles := spent i s } })

/-- R508 and R509. -/
def Obligations.PullInstructions : Prop :=
  Encodes .pla
    [⟨0x68, .implied, 1, 4, false⟩] ∧
  Encodes .plp
    [⟨0x28, .implied, 1, 4, false⟩] ∧
  ∀ (i : Instr) (s : State),
    (i.mnemonic = .pla →
      CompletesQuietly i s { s with
        openBus := stackByte s 1
        cpu := { s.cpu with s := s.cpu.s + 1, a := stackByte s 1, p := znOf (stackByte s 1) s.cpu.p, cycles := spent i s } }) ∧
    (i.mnemonic = .plp →
      CompletesQuietly i s { s with
        openBus := stackByte s 1
        cpu := { s.cpu with s := s.cpu.s + 1, p := (stackByte s 1 &&& 0xEF) ||| 0x20, cycles := spent i s } })

/-- R601 to R604. -/
def Obligations.LogicInstructions : Prop :=
  Encodes .and
    [⟨0x29, .immediate, 2, 2, false⟩, ⟨0x25, .zeroPage, 2, 3, false⟩, ⟨0x35, .zeroPageX, 2, 4, false⟩,
      ⟨0x2D, .absolute, 3, 4, false⟩, ⟨0x3D, .absoluteX, 3, 4, true⟩, ⟨0x39, .absoluteY, 3, 4, true⟩,
      ⟨0x21, .indexedIndirectX, 2, 6, false⟩, ⟨0x31, .indirectIndexedY, 2, 5, true⟩] ∧
  Encodes .ora
    [⟨0x09, .immediate, 2, 2, false⟩, ⟨0x05, .zeroPage, 2, 3, false⟩, ⟨0x15, .zeroPageX, 2, 4, false⟩,
      ⟨0x0D, .absolute, 3, 4, false⟩, ⟨0x1D, .absoluteX, 3, 4, true⟩, ⟨0x19, .absoluteY, 3, 4, true⟩,
      ⟨0x01, .indexedIndirectX, 2, 6, false⟩, ⟨0x11, .indirectIndexedY, 2, 5, true⟩] ∧
  Encodes .eor
    [⟨0x49, .immediate, 2, 2, false⟩, ⟨0x45, .zeroPage, 2, 3, false⟩, ⟨0x55, .zeroPageX, 2, 4, false⟩,
      ⟨0x4D, .absolute, 3, 4, false⟩, ⟨0x5D, .absoluteX, 3, 4, true⟩, ⟨0x59, .absoluteY, 3, 4, true⟩,
      ⟨0x41, .indexedIndirectX, 2, 6, false⟩, ⟨0x51, .indirectIndexedY, 2, 5, true⟩] ∧
  Encodes .bit
    [⟨0x24, .zeroPage, 2, 3, false⟩, ⟨0x2C, .absolute, 3, 4, false⟩] ∧
  ∀ (i : Instr) (s : State),
    (i.mnemonic = .and →
      CompletesQuietly i s { (operandM i s).2 with cpu := { s.cpu with 
        a := s.cpu.a &&& (operandM i s).1, p := znOf (s.cpu.a &&& (operandM i s).1) s.cpu.p, cycles := spent i s } }) ∧
    (i.mnemonic = .ora →
      CompletesQuietly i s { (operandM i s).2 with cpu := { s.cpu with 
        a := s.cpu.a ||| (operandM i s).1, p := znOf (s.cpu.a ||| (operandM i s).1) s.cpu.p, cycles := spent i s } }) ∧
    (i.mnemonic = .eor →
      CompletesQuietly i s { (operandM i s).2 with cpu := { s.cpu with 
        a := s.cpu.a ^^^ (operandM i s).1, p := znOf (s.cpu.a ^^^ (operandM i s).1) s.cpu.p, cycles := spent i s } }) ∧
    (i.mnemonic = .bit →
      CompletesQuietly i s { (operandM i s).2 with cpu := { s.cpu with 
        p := ({ flags s.cpu.p with
          n := (operandM i s).1.getLsbD 7, v := (operandM i s).1.getLsbD 6, z := s.cpu.a &&& (operandM i s).1 == 0 } : Flags).pack, cycles := spent i s } })

/-- R605. `addWithCarry` reads no D, so the sum is the binary one whatever D holds (R606); DecimalHasNoEffect says the same of the whole set. -/
def Obligations.AddWithCarry : Prop :=
  Encodes .adc
    [⟨0x69, .immediate, 2, 2, false⟩, ⟨0x65, .zeroPage, 2, 3, false⟩, ⟨0x75, .zeroPageX, 2, 4, false⟩,
      ⟨0x6D, .absolute, 3, 4, false⟩, ⟨0x7D, .absoluteX, 3, 4, true⟩, ⟨0x79, .absoluteY, 3, 4, true⟩,
      ⟨0x61, .indexedIndirectX, 2, 6, false⟩, ⟨0x71, .indirectIndexedY, 2, 5, true⟩] ∧
  (∀ (a m p : Byte) (d : Bool), (addWithCarry a m (({ flags p with d := d } : Flags).pack)).1 = (addWithCarry a m p).1 ∧
    flags (addWithCarry a m (({ flags p with d := d } : Flags).pack)).2 = { flags (addWithCarry a m p).2 with d := d }) ∧
  ∀ (i : Instr) (s : State),
    (i.mnemonic = .adc →
      CompletesQuietly i s { (operandM i s).2 with cpu := { s.cpu with 
        a := (addWithCarry s.cpu.a (operandM i s).1 s.cpu.p).1, p := (addWithCarry s.cpu.a (operandM i s).1 s.cpu.p).2, cycles := spent i s } })

/-- R607, with the two readings of the sum and the carry its pseudocode gives. -/
def Obligations.SubtractWithBorrow : Prop :=
  Encodes .sbc
    [⟨0xE9, .immediate, 2, 2, false⟩, ⟨0xE5, .zeroPage, 2, 3, false⟩, ⟨0xF5, .zeroPageX, 2, 4, false⟩,
      ⟨0xED, .absolute, 3, 4, false⟩, ⟨0xFD, .absoluteX, 3, 4, true⟩, ⟨0xF9, .absoluteY, 3, 4, true⟩,
      ⟨0xE1, .indexedIndirectX, 2, 6, false⟩, ⟨0xF1, .indirectIndexedY, 2, 5, true⟩] ∧
  (∀ a m p : Byte, (addWithCarry a (m ^^^ 0xFF) p).1 = BitVec.ofInt 8 ((a.toNat : Int) - m.toNat - (1 - (flags p).c.toNat)) ∧
    ((flags (addWithCarry a (m ^^^ 0xFF) p).2).c = true ↔ m.toNat + (1 - (flags p).c.toNat) ≤ a.toNat)) ∧
  ∀ (i : Instr) (s : State),
    (i.mnemonic = .sbc →
      CompletesQuietly i s { (operandM i s).2 with cpu := { s.cpu with 
        a := (addWithCarry s.cpu.a ((operandM i s).1 ^^^ 0xFF) s.cpu.p).1
        p := (addWithCarry s.cpu.a ((operandM i s).1 ^^^ 0xFF) s.cpu.p).2, cycles := spent i s } })

/-- R600(b): V reports signed overflow. -/
def Obligations.OverflowIsSigned : Prop :=
  ∀ (i : Instr) (s t : State), exec i s = .next t →
    (i.mnemonic = .adc →
      ((flags t.cpu.p).v = true ↔ (s.cpu.a.toInt + (operandM i s).1.toInt + (flags s.cpu.p).c.toNat < -128 ∨
        127 < s.cpu.a.toInt + (operandM i s).1.toInt + (flags s.cpu.p).c.toNat))) ∧
    (i.mnemonic = .sbc →
      ((flags t.cpu.p).v = true ↔ (s.cpu.a.toInt - (operandM i s).1.toInt - (1 - (flags s.cpu.p).c.toNat) < -128 ∨
        127 < s.cpu.a.toInt - (operandM i s).1.toInt - (1 - (flags s.cpu.p).c.toNat))))

/-- R608 to R611. -/
def Obligations.CompareInstructions : Prop :=
  Encodes .cmp
    [⟨0xC9, .immediate, 2, 2, false⟩, ⟨0xC5, .zeroPage, 2, 3, false⟩, ⟨0xD5, .zeroPageX, 2, 4, false⟩,
      ⟨0xCD, .absolute, 3, 4, false⟩, ⟨0xDD, .absoluteX, 3, 4, true⟩, ⟨0xD9, .absoluteY, 3, 4, true⟩,
      ⟨0xC1, .indexedIndirectX, 2, 6, false⟩, ⟨0xD1, .indirectIndexedY, 2, 5, true⟩] ∧
  Encodes .cpx
    [⟨0xE0, .immediate, 2, 2, false⟩, ⟨0xE4, .zeroPage, 2, 3, false⟩, ⟨0xEC, .absolute, 3, 4, false⟩] ∧
  Encodes .cpy
    [⟨0xC0, .immediate, 2, 2, false⟩, ⟨0xC4, .zeroPage, 2, 3, false⟩, ⟨0xCC, .absolute, 3, 4, false⟩] ∧
  ∀ (i : Instr) (s : State),
    (i.mnemonic = .cmp →
      CompletesQuietly i s { (operandM i s).2 with cpu := { s.cpu with p := comparedP s.cpu.a (operandM i s).1 s.cpu.p, cycles := spent i s } }) ∧
    (i.mnemonic = .cpx →
      CompletesQuietly i s { (operandM i s).2 with cpu := { s.cpu with p := comparedP s.cpu.x (operandM i s).1 s.cpu.p, cycles := spent i s } }) ∧
    (i.mnemonic = .cpy →
      CompletesQuietly i s { (operandM i s).2 with cpu := { s.cpu with p := comparedP s.cpu.y (operandM i s).1 s.cpu.p, cycles := spent i s } })

/-- R612 and R613. -/
def Obligations.MemoryIncrements : Prop :=
  Encodes .inc
    [⟨0xE6, .zeroPage, 2, 5, false⟩, ⟨0xF6, .zeroPageX, 2, 6, false⟩, ⟨0xEE, .absolute, 3, 6, false⟩,
      ⟨0xFE, .absoluteX, 3, 7, false⟩] ∧
  Encodes .dec
    [⟨0xC6, .zeroPage, 2, 5, false⟩, ⟨0xD6, .zeroPageX, 2, 6, false⟩, ⟨0xCE, .absolute, 3, 6, false⟩,
      ⟨0xDE, .absoluteX, 3, 7, false⟩] ∧
  ∀ (i : Instr) (s : State),
    (i.mnemonic = .inc →
      CompletesStoring i (address i s) s
        (let w := busWrite (address i s) ((operandM i s).1 + 1) (counted i s (operandM i s).2)
         { w with cpu := { w.cpu with p := znOf ((operandM i s).1 + 1) s.cpu.p } })) ∧
    (i.mnemonic = .dec →
      CompletesStoring i (address i s) s
        (let w := busWrite (address i s) ((operandM i s).1 - 1) (counted i s (operandM i s).2)
         { w with cpu := { w.cpu with p := znOf ((operandM i s).1 - 1) s.cpu.p } }))

/-- R614 to R617. -/
def Obligations.RegisterIncrements : Prop :=
  Encodes .inx
    [⟨0xE8, .implied, 1, 2, false⟩] ∧
  Encodes .iny
    [⟨0xC8, .implied, 1, 2, false⟩] ∧
  Encodes .dex
    [⟨0xCA, .implied, 1, 2, false⟩] ∧
  Encodes .dey
    [⟨0x88, .implied, 1, 2, false⟩] ∧
  ∀ (i : Instr) (s : State),
    (i.mnemonic = .inx →
      CompletesQuietly i s { s with cpu := { s.cpu with x := s.cpu.x + 1, p := znOf (s.cpu.x + 1) s.cpu.p, cycles := spent i s } }) ∧
    (i.mnemonic = .iny →
      CompletesQuietly i s { s with cpu := { s.cpu with y := s.cpu.y + 1, p := znOf (s.cpu.y + 1) s.cpu.p, cycles := spent i s } }) ∧
    (i.mnemonic = .dex →
      CompletesQuietly i s { s with cpu := { s.cpu with x := s.cpu.x - 1, p := znOf (s.cpu.x - 1) s.cpu.p, cycles := spent i s } }) ∧
    (i.mnemonic = .dey →
      CompletesQuietly i s { s with cpu := { s.cpu with y := s.cpu.y - 1, p := znOf (s.cpu.y - 1) s.cpu.p, cycles := spent i s } })

/-- R700 to R703. `shifted` gives the result and the bit moved out. -/
def Obligations.ShiftInstructions : Prop :=
  Encodes .asl
    [⟨0x0A, .accumulator, 1, 2, false⟩, ⟨0x06, .zeroPage, 2, 5, false⟩, ⟨0x16, .zeroPageX, 2, 6, false⟩,
      ⟨0x0E, .absolute, 3, 6, false⟩, ⟨0x1E, .absoluteX, 3, 7, false⟩] ∧
  Encodes .lsr
    [⟨0x4A, .accumulator, 1, 2, false⟩, ⟨0x46, .zeroPage, 2, 5, false⟩, ⟨0x56, .zeroPageX, 2, 6, false⟩,
      ⟨0x4E, .absolute, 3, 6, false⟩, ⟨0x5E, .absoluteX, 3, 7, false⟩] ∧
  Encodes .rol
    [⟨0x2A, .accumulator, 1, 2, false⟩, ⟨0x26, .zeroPage, 2, 5, false⟩, ⟨0x36, .zeroPageX, 2, 6, false⟩,
      ⟨0x2E, .absolute, 3, 6, false⟩, ⟨0x3E, .absoluteX, 3, 7, false⟩] ∧
  Encodes .ror
    [⟨0x6A, .accumulator, 1, 2, false⟩, ⟨0x66, .zeroPage, 2, 5, false⟩, ⟨0x76, .zeroPageX, 2, 6, false⟩,
      ⟨0x6E, .absolute, 3, 6, false⟩, ⟨0x7E, .absoluteX, 3, 7, false⟩] ∧
  ∀ (i : Instr) (s : State), i.mnemonic = .asl ∨ i.mnemonic = .lsr ∨ i.mnemonic = .rol ∨ i.mnemonic = .ror →
    let v := (operandM i s).1
    let r := (shifted i.mnemonic v (flags s.cpu.p).c).1
    (i.mode = .accumulator →
      CompletesQuietly i s { s with cpu := { s.cpu with a := r, p := shiftedP i.mnemonic v s.cpu.p, cycles := spent i s } }) ∧
    (i.mode ≠ .accumulator →
      CompletesStoring i (address i s) s
        (let w := busWrite (address i s) r (counted i s (operandM i s).2)
         { w with cpu := { w.cpu with p := shiftedP i.mnemonic v s.cpu.p } }))

/-- R800 and R830. -/
def Obligations.JumpAndNop : Prop :=
  Encodes .jmp
    [⟨0x4C, .absolute, 3, 3, false⟩, ⟨0x6C, .indirect, 3, 5, false⟩] ∧
  Encodes .nop
    [⟨0xEA, .implied, 1, 2, false⟩] ∧
  (∀ (ptr : Word) (s : State), address (.jmpInd ptr) s = (read16At ptr (mkWord (hiByte ptr) (loByte ptr + 1)) s).1) ∧
  ∀ (i : Instr) (s : State),
    (i.mnemonic = .jmp →
      CompletesQuietly i s { resolved i s with cpu := { s.cpu with pc := address i s, cycles := spent i s } }) ∧
    (i.mnemonic = .nop → CompletesQuietly i s { s with cpu := { s.cpu with cycles := spent i s } })

/-- R801. The high byte is fetched after the pushes (DEDUCED, log 5, says how the model keeps that order); JsrInSpecOrder states the rule's own sequence. -/
def Obligations.JsrCompletes : Prop :=
  ∀ (a : Word) (s : State), ∃ hi : Byte,
    CompletesPushing (.jsr a) 2 s { s with
      ram := pushed s.ram s.cpu.s [hiByte (s.cpu.pc - 1), loByte (s.cpu.pc - 1)], openBus := hi
      cpu := { s.cpu with s := s.cpu.s - 2, pc := mkWord hi (loByte a), cycles := s.cpu.cycles + 6 } } ∧
    (sameRamByte (s.cpu.pc - 1) (stackAddr s.cpu.s) = false → sameRamByte (s.cpu.pc - 1) (stackAddr (s.cpu.s - 1)) = false →
      hi = hiByte a) ∧
    (sameRamByte (s.cpu.pc - 1) (stackAddr (s.cpu.s - 1)) = true → hi = loByte (s.cpu.pc - 1)) ∧
    (sameRamByte (s.cpu.pc - 1) (stackAddr s.cpu.s) = true → hi = hiByte (s.cpu.pc - 1))

/-- R801's pseudocode, run literally. The model fetches both operand bytes first; this says that no state shows the difference. -/
def Obligations.JsrInSpecOrder : Prop :=
  Encodes .jsr
    [⟨0x20, .absolute, 3, 6, false⟩] ∧
  ∀ s : State, s.Inv → (busRead s.cpu.pc s).1 = 0x20 →
    let op := fetch8 s
    let lo := fetch8 op.2
    let hi := fetch8 (push16 lo.2.cpu.pc lo.2)
    ∃ t, executeInstruction s = .next t ∧
      visible t = visible { hi.2 with cpu := { hi.2.cpu with pc := mkWord hi.1 lo.1, cycles := s.cpu.cycles + 6 } }

/-- R802. -/
def Obligations.RtsReturns : Prop :=
  Encodes .rts
    [⟨0x60, .implied, 1, 6, false⟩] ∧
  ∀ s : State, CompletesQuietly .rts s { s with
    openBus := stackByte s 2
    cpu := { s.cpu with s := s.cpu.s + 2, pc := mkWord (stackByte s 2) (stackByte s 1) + 1, cycles := spent .rts s } }

/-- R801 and R802 together: a call returns. The registers between the two may be anything but for S. -/
def Obligations.JsrThenRts : Prop :=
  ∀ (a : Word) (s t : State), s.Inv → exec (.jsr a) s = .next t →
    ∀ t' : State, t'.ram = t.ram → t'.cpu.s = t.cpu.s →
      ∃ u, exec .rts t' = .next u ∧ u.cpu.pc = s.cpu.pc ∧ u.cpu.s = s.cpu.s ∧ u.ram = t.ram

/-- R810 to R818. -/
def Obligations.BranchInstructions : Prop :=
  (∀ i : Instr, i.mnemonic = .bcc → rowOf i = ⟨0x90, .relative, 2, 2, false⟩) ∧
  (∀ i : Instr, i.mnemonic = .bcs → rowOf i = ⟨0xB0, .relative, 2, 2, false⟩) ∧
  (∀ i : Instr, i.mnemonic = .beq → rowOf i = ⟨0xF0, .relative, 2, 2, false⟩) ∧
  (∀ i : Instr, i.mnemonic = .bne → rowOf i = ⟨0xD0, .relative, 2, 2, false⟩) ∧
  (∀ i : Instr, i.mnemonic = .bmi → rowOf i = ⟨0x30, .relative, 2, 2, false⟩) ∧
  (∀ i : Instr, i.mnemonic = .bpl → rowOf i = ⟨0x10, .relative, 2, 2, false⟩) ∧
  (∀ i : Instr, i.mnemonic = .bvc → rowOf i = ⟨0x50, .relative, 2, 2, false⟩) ∧
  (∀ i : Instr, i.mnemonic = .bvs → rowOf i = ⟨0x70, .relative, 2, 2, false⟩) ∧
  ∀ (i : Instr) (s : State) (taken : Bool),
    (i.mnemonic = .bcc ∧ taken = !(flags s.cpu.p).c) ∨ (i.mnemonic = .bcs ∧ taken = (flags s.cpu.p).c) ∨
    (i.mnemonic = .beq ∧ taken = (flags s.cpu.p).z) ∨ (i.mnemonic = .bne ∧ taken = !(flags s.cpu.p).z) ∨
    (i.mnemonic = .bmi ∧ taken = (flags s.cpu.p).n) ∨ (i.mnemonic = .bpl ∧ taken = !(flags s.cpu.p).n) ∨
    (i.mnemonic = .bvc ∧ taken = !(flags s.cpu.p).v) ∨ (i.mnemonic = .bvs ∧ taken = (flags s.cpu.p).v) →
      let target := s.cpu.pc + (op8 i).signExtend 16
      CompletesQuietly i s { s with cpu := { s.cpu with
        pc := if taken then target else s.cpu.pc
        cycles := s.cpu.cycles + 2 + (if taken then 1 + (if pageCross s.cpu.pc target then 1 else 0) else 0) } }

/-- R820. -/
def Obligations.BrkEnters : Prop :=
  Encodes .brk
    [⟨0x00, .implied, 1, 7, false⟩] ∧
  ∀ s : State, CompletesPushing .brk 3 s
    (let t := entered (s.cpu.pc + 1) (({ flags s.cpu.p with u := true, b := true } : Flags).pack) 0xFFFE s
     { t with cpu := { t.cpu with cycles := spent .brk s } })

/-- R821. -/
def Obligations.RtiReturns : Prop :=
  Encodes .rti
    [⟨0x40, .implied, 1, 6, false⟩] ∧
  ∀ s : State, CompletesQuietly .rti s { s with
    openBus := stackByte s 3
    cpu := { s.cpu with
      s := s.cpu.s + 3, p := (stackByte s 1 &&& 0xEF) ||| 0x20, pc := mkWord (stackByte s 3) (stackByte s 2), cycles := spent .rti s } }

/-- R820, R821 and R302 together: a software interrupt returns. What the handler does to registers other than S does not matter. -/
def Obligations.BrkThenRti : Prop :=
  ∀ s t : State, s.Inv → exec .brk s = .next t →
    ∀ t' : State, t'.ram = t.ram → t'.cpu.s = t.cpu.s →
      ∃ u, exec .rti t' = .next u ∧ u.cpu.pc = s.cpu.pc + 1 ∧ u.cpu.p = s.cpu.p ∧ u.cpu.s = s.cpu.s ∧ u.ram = t.ram

/-- R900 to R906. -/
def Obligations.FlagInstructions : Prop :=
  Encodes .clc
    [⟨0x18, .implied, 1, 2, false⟩] ∧
  Encodes .sec
    [⟨0x38, .implied, 1, 2, false⟩] ∧
  Encodes .cli
    [⟨0x58, .implied, 1, 2, false⟩] ∧
  Encodes .sei
    [⟨0x78, .implied, 1, 2, false⟩] ∧
  Encodes .cld
    [⟨0xD8, .implied, 1, 2, false⟩] ∧
  Encodes .sed
    [⟨0xF8, .implied, 1, 2, false⟩] ∧
  Encodes .clv
    [⟨0xB8, .implied, 1, 2, false⟩] ∧
  ∀ (i : Instr) (s : State),
    (i.mnemonic = .clc →
      CompletesQuietly i s { s with cpu := { s.cpu with p := ({ flags s.cpu.p with c := false } : Flags).pack, cycles := spent i s } }) ∧
    (i.mnemonic = .sec →
      CompletesQuietly i s { s with cpu := { s.cpu with p := ({ flags s.cpu.p with c := true } : Flags).pack, cycles := spent i s } }) ∧
    (i.mnemonic = .cli →
      CompletesQuietly i s { s with cpu := { s.cpu with p := ({ flags s.cpu.p with i := false } : Flags).pack, cycles := spent i s } }) ∧
    (i.mnemonic = .sei →
      CompletesQuietly i s { s with cpu := { s.cpu with p := ({ flags s.cpu.p with i := true } : Flags).pack, cycles := spent i s } }) ∧
    (i.mnemonic = .cld →
      CompletesQuietly i s { s with cpu := { s.cpu with p := ({ flags s.cpu.p with d := false } : Flags).pack, cycles := spent i s } }) ∧
    (i.mnemonic = .sed →
      CompletesQuietly i s { s with cpu := { s.cpu with p := ({ flags s.cpu.p with d := true } : Flags).pack, cycles := spent i s } }) ∧
    (i.mnemonic = .clv →
      CompletesQuietly i s { s with cpu := { s.cpu with p := ({ flags s.cpu.p with v := false } : Flags).pack, cycles := spent i s } })

/-- The writer lists of R101 to R104, over all instructions. -/
def Obligations.RegisterWriters : Prop :=
  ∀ (i : Instr) (s t : State), exec i s = .next t →
    (t.cpu.a ≠ s.cpu.a → i.mnemonic ∈ [.lda, .pla, .txa, .tya, .adc, .sbc, .and, .ora, .eor] ∨
      (i.mode = .accumulator ∧ i.mnemonic ∈ [.asl, .lsr, .rol, .ror])) ∧
    (t.cpu.x ≠ s.cpu.x → i.mnemonic ∈ [.ldx, .tax, .tsx, .inx, .dex]) ∧
    (t.cpu.y ≠ s.cpu.y → i.mnemonic ∈ [.ldy, .tay, .iny, .dey]) ∧
    (t.cpu.s ≠ s.cpu.s → i.mnemonic ∈ [.txs, .pha, .php, .pla, .plp, .jsr, .rts, .brk, .rti])

/-- The writer lists of R108 to R113 and the storage convention of R107, over all instructions. -/
def Obligations.FlagWriters : Prop :=
  ∀ (i : Instr) (s t : State), exec i s = .next t →
    ((flags t.cpu.p).c ≠ (flags s.cpu.p).c → i.mnemonic ∈
      [.adc, .sbc, .cmp, .cpx, .cpy, .asl, .lsr, .rol, .ror, .clc, .sec, .plp, .rti]) ∧
    ((flags t.cpu.p).z ≠ (flags s.cpu.p).z → i.mnemonic ∈
      [.lda, .ldx, .ldy, .tax, .tay, .txa, .tya, .tsx, .pla, .and, .ora, .eor, .adc, .sbc, .inc, .inx, .iny, .dec, .dex, .dey, .asl, .lsr, .rol, .ror, .cmp, .cpx, .cpy, .bit, .plp, .rti]) ∧
    ((flags t.cpu.p).i ≠ (flags s.cpu.p).i → i.mnemonic ∈ [.sei, .cli, .plp, .rti, .brk]) ∧
    ((flags t.cpu.p).d ≠ (flags s.cpu.p).d → i.mnemonic ∈ [.sed, .cld, .plp, .rti]) ∧
    ((flags t.cpu.p).v ≠ (flags s.cpu.p).v → i.mnemonic ∈ [.adc, .sbc, .bit, .clv, .plp, .rti]) ∧
    ((flags t.cpu.p).n ≠ (flags s.cpu.p).n → i.mnemonic ∈
      [.lda, .ldx, .ldy, .tax, .tay, .txa, .tya, .tsx, .pla, .and, .ora, .eor, .adc, .sbc, .inc, .inx, .iny, .dec, .dex, .dey, .asl, .lsr, .rol, .ror, .cmp, .cpx, .cpy, .bit, .plp, .rti]) ∧
    ((flags t.cpu.p).u ≠ (flags s.cpu.p).u ∨ (flags t.cpu.p).b ≠ (flags s.cpu.p).b →
      i.mnemonic ∈ [.plp, .rti] ∧ (flags t.cpu.p).u = true ∧ (flags t.cpu.p).b = false)

/-- R111: no instruction's result depends on D; only the pushes of P read it. -/
def Obligations.DecimalHasNoEffect : Prop :=
  ∀ (i : Instr) (s t : State) (d : Bool), i.mnemonic ≠ .php → i.mnemonic ≠ .brk → exec i s = .next t →
    ∃ d', exec i { s with cpu := { s.cpu with p := ({ flags s.cpu.p with d := d } : Flags).pack } } =
        .next { t with cpu := { t.cpu with p := ({ flags t.cpu.p with d := d' } : Flags).pack } } ∧
      (i.mnemonic ∉ [.sed, .cld, .plp, .rti] → d' = d) ∧ (i.mnemonic ∈ [.sed, .cld, .plp, .rti] → d' = (flags t.cpu.p).d)

/-- R205, with each effect as its own rule gives it (R1104, R1110, R1222, R273). -/
def Obligations.ReadEffects : Prop :=
  ∀ (a : Word) (s : State), let r := busRead a s
    (0x2000 ≤ a.toNat → a.toNat ≤ 0x3FFF → a.toNat % 8 = 2 →
      r.2 = { s with ppu := { s.ppu with vblank := false, w := false }, openBus := r.1 }) ∧
    (0x2000 ≤ a.toNat → a.toNat ≤ 0x3FFF → a.toNat % 8 = 7 →
      r.2 = { s with
        ppu := { s.ppu with
          vaddr := BitVec.ofNat 15 (s.ppu.vaddr.toNat + (if s.ppu.ctrl.getLsbD 2 then 32 else 1))
          readBuffer := ppuRead s (if 0x3F00 ≤ s.ppu.vaddr.toNat % 0x4000 then s.ppu.vaddr.toNat % 0x4000 - 0x1000 else s.ppu.vaddr.toNat) }
        openBus := r.1 }) ∧
    (a = 0x4015 → r.2 = { s with apu := { s.apu with frameIrq := false }, openBus := r.1 }) ∧
    (a = 0x4016 → r.2 = { s with
      pads := { s.pads with sr0 := if s.pads.strobe then s.host.buttons0.pack else (s.pads.sr0 >>> 1) ||| 0x80 }, openBus := r.1 }) ∧
    (a = 0x4017 → r.2 = { s with
      pads := { s.pads with sr1 := if s.pads.strobe then s.host.buttons1.pack else (s.pads.sr1 >>> 1) ||| 0x80 }, openBus := r.1 }) ∧
    (¬(0x2000 ≤ a.toNat ∧ a.toNat ≤ 0x3FFF ∧ (a.toNat % 8 = 2 ∨ a.toNat % 8 = 7)) → a ∉ [0x4015, 0x4016, 0x4017] →
      (∃ log, r.2 = { s with openBus := r.1, host := { s.host with log := log } }) ∧ (busRead a r.2).1 = r.1)

/-- R221: a read of RAM or PRG RAM returns the latest write to that cell; R204: RAM is mirrored four times. -/
def Obligations.ReadAfterWrite : Prop :=
  ∀ (a b : Word) (v : Byte) (s : State), s.Inv →
    (a.toNat ≤ 0x1FFF ∨ (0x6000 ≤ a.toNat ∧ a.toNat ≤ 0x7FFF ∧ s.cart.battery = true)) →
      memoryAt (busWrite a v s) b =
        if (a.toNat ≤ 0x1FFF ∧ b.toNat ≤ 0x1FFF ∧ a.toNat % 0x800 = b.toNat % 0x800) ∨ a = b then some v else memoryAt s b

/-- R208: a write does not change openBus; the two writes that start DMA reads do through those reads (61_ppu R1150, 62_apu R1221). -/
def Obligations.WriteFrame : Prop :=
  ∀ (a : Word) (v : Byte) (s : State), let t := busWrite a v s
    (∃ nmi stall latch, t.cpu = { s.cpu with nmiPending := nmi, stallCycles := stall, irqLatch := latch }) ∧
    t.fault = s.fault ∧ t.cart.image = s.cart.image ∧
    (0x1FFF < a.toNat → t.ram = s.ram) ∧ (a ≠ 0x4014 → a ≠ 0x4015 → t.openBus = s.openBus)

/-- R212, R244 and R245. The writes to 0x4014 and 0x4015 are left out of the comparison with variant 0 because they start reads that go through the mapped ROM. -/
def Obligations.MapperWrites : Prop :=
  ∀ (a b : Word) (v : Byte) (s : State), 0x8000 ≤ a.toNat →
    let t := busWrite a v s
    let nrom : State := { s with cart := { s.cart with mapper := .nrom } }
    (s.cart.mapper = .nrom → t = { s with host := { s.host with log := .romWrite a.toNat v :: s.host.log } }) ∧
    (∀ g : Nat, g ≤ 0x1FFF → s.cart.chrBanks ≠ 0 →
      ppuWrite g v s = { s with host := { s.host with log := .romWrite g v :: s.host.log } }) ∧
    (∀ bank, s.cart.mapper = .uxrom bank → 1 ≤ s.cart.prgBanks →
      (∃ n : Byte, n.toNat = v.toNat % s.cart.prgBanks ∧ t = { s with cart := { s.cart with mapper := .uxrom n } }) ∧
      (0x8000 ≤ b.toNat → b.toNat ≤ 0xBFFF →
        (busRead b t).1 = s.cart.prg.read (v.toNat % s.cart.prgBanks * 16384 + (b.toNat - 0x8000))) ∧
      (0xC000 ≤ b.toNat → (busRead b t).1 = s.cart.prg.read ((s.cart.prgBanks - 1) * 16384 + (b.toNat - 0xC000))) ∧
      (b.toNat < 0x8000 → (busRead b s).1 = (busRead b nrom).1) ∧
      (b.toNat < 0x8000 → b ≠ 0x4014 → b ≠ 0x4015 →
        busWrite b v s = { busWrite b v nrom with cart := { (busWrite b v nrom).cart with mapper := s.cart.mapper } }) ∧
      (∀ g : Nat, s.cart.readGraphics g = nrom.cart.readGraphics g)) ∧
    (∀ bank, s.cart.mapper = .cnrom bank →
      (∃ n : Byte, n.toNat = v.toNat % max s.cart.chrBanks 1 ∧ t = { s with cart := { s.cart with mapper := .cnrom n } }) ∧
      (∀ g : Nat, g ≤ 0x1FFF → t.cart.readGraphics g =
        if s.cart.chrBanks = 0 then s.cart.chrRam.read g else s.cart.chr.read (v.toNat % max s.cart.chrBanks 1 * 8192 + g)) ∧
      (0x8000 ≤ b.toNat → (busRead b s).1 = (busRead b nrom).1))

/-- R240: the ROM buffers are immutable after insertion; R225: code in PRG ROM cannot be modified. -/
def Obligations.CartridgeIsImmutable : Prop :=
  ∀ s t : State, step s = .next t → t.cart.image = s.cart.image

/-- State.Inv, the ranges of the state tables, is kept by every step from every state that has it. -/
def Obligations.StepKeepsInvariant : Prop :=
  ∀ s t : State, s.Inv → step s = .next t → t.Inv

/-- The invariant holds where a run starts. The blank cartridge and the zero memories of State.reset are the model's choice (logs 1 and 2). -/
def Obligations.ResetMeetsInvariant : Prop :=
  State.reset.Inv ∧
  ∀ (c : CartImage) (m : PowerOnMemory) (s : State), c.wellFormed = true → mapperOf c.mapperNumber ≠ none →
    Mem.wf 2048 m.ram = true → Mem.wf (vramSize c.mirroring) m.vram = true → Mem.wf 256 m.oam = true →
    Mem.wf6 32 m.palette = true → Mem.wf 8192 m.prgRam = true → Mem.wf 8192 m.chrRam = true → (insertCartridge c m s).Inv

/-- R1300 with the tables of R118, 61_ppu R1100 and 62_apu R1200 written out. An empty list is a memory or picture of zeros. -/
def Obligations.PowerOnState : Prop :=
  ∀ (c : CartImage) (m : PowerOnMemory) (s : State), let t := insertCartridge c m s
    (c.mapperNumber = 0 ∨ c.mapperNumber = 2 ∨ c.mapperNumber = 3 →
      t.cart = { mapper := if c.mapperNumber = 0 then .nrom else if c.mapperNumber = 2 then .uxrom 0 else .cnrom 0
                 prgBanks := c.prgBanks, chrBanks := c.chrBanks, mirroring := c.mirroring, battery := c.battery
                 prg := c.prg, chr := c.chr, prgRam := m.prgRam, chrRam := m.chrRam } ∧
      t.cpu.a = 0 ∧ t.cpu.x = 0 ∧ t.cpu.y = 0 ∧ t.cpu.s = 0xFD ∧
      flags t.cpu.p = { n := false, v := false, u := true, b := false, d := false, i := true, z := false, c := false } ∧
      t.cpu.pc = vectorWord t 0xFFFC ∧ t.cpu.totalCycles = 7 ∧ t.cpu.stallCycles = 0 ∧ t.cpu.nmiPending = false ∧
      t.ram = m.ram ∧ t.vram = m.vram ∧ t.openBus = 0 ∧ t.fault = none ∧ t.pads = { strobe := false, sr0 := 0, sr1 := 0 } ∧
      t.ppu =
        { ctrl := 0, mask := 0, vblank := false, sprite0Hit := false, spriteOverflow := false, oamAddr := 0, oam := m.oam
          vaddr := 0, taddr := 0, fineX := 0, w := false, readBuffer := 0, dot := 0, scanline := 0, oddFrame := false
          palette := m.palette, ntByte := 0, atBits := 0, ptLo := 0, ptHi := 0, bgShiftLo := 0, bgShiftHi := 0
          atShiftLo := 0, atShiftHi := 0, sprCount := 0, sprZeroInLine := false
          slots := Vector.replicate 8 { x := 0, attr := 0, lo := 0, hi := 0 }, framebuffer := [] } ∧
      t.apu.cpuPhase = false ∧ t.apu.frameCycle = 0 ∧ t.apu.seqMode = false ∧ t.apu.irqInhibit = false ∧
      t.apu.frameIrq = false ∧ t.apu.dmcIrq = false ∧
      (∀ q ∈ [t.apu.pulse1, t.apu.pulse2],
        q = { enabled := false, duty := 0, halt := false, constVol := false, volume := 0, timer := 0, timerCounter := 0
              step := 0, length := 0, env := { start := false, divider := 0, decay := 0 }, swEnabled := false
              swNegate := false, swReload := false, swPeriod := 0, swShift := 0, swDivider := 0 }) ∧
      t.apu.triangle =
        { enabled := false, control := false, linReloadValue := 0, linear := 0, linReload := false, timer := 0
          timerCounter := 0, step := 0, length := 0 } ∧
      t.apu.noise =
        { enabled := false, halt := false, constVol := false, mode := false, volume := 0, periodIdx := 0, timerCounter := 0
          lfsr := 1, length := 0, env := { start := false, divider := 0, decay := 0 } } ∧
      t.apu.dmc =
        { irqEnable := false, loop := false, rateIdx := 0, timerCounter := 0, sampleAddrReg := 0, sampleLengthReg := 0
          currentAddr := 0xC000, bytesRemaining := 0, sampleBuffer := 0, bufferEmpty := true, shiftReg := 0
          bitsRemaining := 8, level := 0, silence := true } ∧
      t.apu.out = { boxSum := 0, boxCount := 0, phase := 0, ready := [] }) ∧
    (c.mapperNumber ≠ 0 → c.mapperNumber ≠ 2 → c.mapperNumber ≠ 3 →
      t.fault = some (.unsupportedMapper c.mapperNumber) ∧ step t = .fault (.halted (.unsupportedMapper c.mapperNumber)))

/-- R119, R1301 and R1302. The clause `irqLatch := false` is the model's choice, a DESIGN CHOICE (log 9): no rule says it of this latch. -/
def Obligations.WarmResetState : Prop :=
  Config.resetKind = .warm ∧
  ∀ s : State, resetWith Config.resetKind s =
    { s with
      cpu := { s.cpu with
        s := s.cpu.s - 3, p := ({ flags s.cpu.p with i := true, u := true, b := false } : Flags).pack, pc := vectorWord s 0xFFFC
        totalCycles := s.cpu.totalCycles + 7, stallCycles := 0, nmiPending := false, irqLatch := false }
      ppu := { s.ppu with ctrl := 0, mask := 0, w := false, readBuffer := 0, taddr := 0, fineX := 0, oddFrame := false }
      apu := { s.apu with
        pulse1 := { s.apu.pulse1 with enabled := false, length := 0 }, pulse2 := { s.apu.pulse2 with enabled := false, length := 0 }
        triangle := { s.apu.triangle with enabled := false, length := 0, step := 0 }
        noise := { s.apu.noise with enabled := false, length := 0 }
        dmc := { s.apu.dmc with bytesRemaining := 0, level := s.apu.dmc.level &&& 1 }
        dmcIrq := false, frameIrq := false, frameCycle := 0 }
      openBus := s.cart.prgByte 0xFFFD, fault := none }

/-- R1104 to R1113, through the CPU bus. -/
def Obligations.PpuPorts : Prop :=
  ∀ (a : Word) (v : Byte) (s : State), 0x2000 ≤ a.toNat → a.toNat ≤ 0x3FFF →
    let p := s.ppu
    let next := p.vaddr + if p.ctrl.getLsbD 2 then 32 else 1
    (a.toNat % 8 = 0 ∨ a.toNat % 8 = 1 ∨ a.toNat % 8 = 3 ∨ a.toNat % 8 = 5 ∨ a.toNat % 8 = 6 → busRead a s = (s.openBus, s)) ∧
    (a.toNat % 8 = 4 → busRead a s = (p.oam.read p.oamAddr.toNat, { s with openBus := p.oam.read p.oamAddr.toNat })) ∧
    (a.toNat % 8 = 7 → p.vaddr.toNat % 0x4000 < 0x3F00 →
      busRead a s = (p.readBuffer,
        { s with ppu := { p with readBuffer := ppuRead s p.vaddr.toNat, vaddr := next }, openBus := p.readBuffer })) ∧
    (a.toNat % 8 = 7 → 0x3F00 ≤ p.vaddr.toNat % 0x4000 →
      busRead a s = (ppuRead s p.vaddr.toNat,
        { s with
          ppu := { p with readBuffer := ppuRead s (p.vaddr.toNat % 0x4000 - 0x1000), vaddr := next }
          openBus := ppuRead s p.vaddr.toNat })) ∧
    (a.toNat % 8 = 7 →
      busWrite a v s = { ppuWrite p.vaddr.toNat v s with ppu := { (ppuWrite p.vaddr.toNat v s).ppu with vaddr := next } }) ∧
    (a.toNat % 8 = 1 → busWrite a v s = { s with ppu := { p with mask := v } }) ∧
    (a.toNat % 8 = 2 → busWrite a v s = s) ∧
    (a.toNat % 8 = 2 →
      (busRead a s).1 = bitAt 7 p.vblank ||| bitAt 6 p.sprite0Hit ||| bitAt 5 p.spriteOverflow ||| (s.openBus &&& 0x1F) ∧
      (busRead a s).2 = { s with ppu := { p with vblank := false, w := false }, openBus := (busRead a s).1 }) ∧
    (a.toNat % 8 = 3 → busWrite a v s = { s with ppu := { p with oamAddr := v } }) ∧
    (a.toNat % 8 = 4 →
      busWrite a v s = { s with ppu := { p with oam := p.oam.write p.oamAddr.toNat v, oamAddr := p.oamAddr + 1 } }) ∧
    (a.toNat % 8 = 5 → p.w = false →
      busWrite a v s = { s with ppu := { p with
        taddr := (p.taddr &&& ~~~0x001F#15) ||| (v >>> 3).setWidth 15, fineX := v.setWidth 3, w := true } }) ∧
    (a.toNat % 8 = 5 → p.w = true →
      busWrite a v s = { s with ppu := { p with
        taddr := (p.taddr &&& ~~~0x73E0#15) ||| ((v &&& 0x07).setWidth 15 <<< 12) ||| ((v >>> 3).setWidth 15 <<< 5), w := false } }) ∧
    (a.toNat % 8 = 6 → p.w = false →
      busWrite a v s = { s with ppu := { p with
        taddr := (p.taddr &&& 0x00FF#15) ||| ((v &&& 0x3F).setWidth 15 <<< 8), w := true } }) ∧
    (a.toNat % 8 = 6 → p.w = true →
      busWrite a v s = { s with ppu := { p with
        taddr := (p.taddr &&& 0x7F00#15) ||| v.setWidth 15, vaddr := (p.taddr &&& 0x7F00#15) ||| v.setWidth 15, w := false } }) ∧
    (a.toNat % 8 = 0 →
      busWrite a v s = { s with
        ppu := { p with ctrl := v, taddr := (p.taddr &&& ~~~0x0C00#15) ||| ((v &&& 0x03).setWidth 15 <<< 10) }
        cpu := { s.cpu with
          nmiPending := s.cpu.nmiPending || (p.ctrl.getLsbD 7 == false && v.getLsbD 7 == true && p.vblank == true) } })

/-- What the two pairs of writes mean in the layout of R1115. -/
def Obligations.ScrollAndAddressPairs : Prop :=
  ∀ (x y : Byte) (s : State), s.ppu.w = false →
    (let t := busWrite 0x2005 y (busWrite 0x2005 x s)
     t.ppu.taddr.toNat % 32 = x.toNat / 8 ∧ t.ppu.fineX.toNat = x.toNat % 8 ∧ t.ppu.taddr.toNat / 32 % 32 = y.toNat / 8 ∧
       t.ppu.taddr.toNat / 4096 = y.toNat % 8 ∧ t.ppu.taddr.toNat / 1024 % 4 = s.ppu.taddr.toNat / 1024 % 4 ∧
       t.ppu.vaddr = s.ppu.vaddr ∧ t.ppu.w = false) ∧
    (let t := busWrite 0x2006 y (busWrite 0x2006 x s)
     t.ppu.vaddr.toNat = x.toNat % 64 * 256 + y.toNat ∧ t.ppu.taddr = t.ppu.vaddr ∧ t.ppu.fineX = s.ppu.fineX ∧ t.ppu.w = false)

/-- R250 to R257. `ppuHome` is the lowest address with the same cell. -/
def Obligations.PpuAddressSpace : Prop :=
  ∀ (a : Nat) (v : Byte) (s : State),
    ppuRead s (a % 0x4000) = ppuRead s a ∧ ppuWrite (a % 0x4000) v s = ppuWrite a v s ∧
    (0x3000 ≤ a → a ≤ 0x3EFF → ppuRead s a = ppuRead s (a - 0x1000)) ∧
    (∀ k < 0x400,
      (s.cart.mirroring = .horizontal →
        ppuRead s (0x2000 + k) = ppuRead s (0x2400 + k) ∧ ppuRead s (0x2800 + k) = ppuRead s (0x2C00 + k)) ∧
      (s.cart.mirroring = .vertical →
        ppuRead s (0x2000 + k) = ppuRead s (0x2800 + k) ∧ ppuRead s (0x2400 + k) = ppuRead s (0x2C00 + k)) ∧
      (s.cart.mirroring = .singleScreen → ∀ n < 4, ppuRead s (0x2000 + n * 0x400 + k) = ppuRead s (0x2000 + k))) ∧
    (0x3F00 ≤ a → a ≤ 0x3FFF → ppuRead s a = ppuRead s (0x3F00 + a % 32) ∧
      (a % 32 = 0x10 ∨ a % 32 = 0x14 ∨ a % 32 = 0x18 ∨ a % 32 = 0x1C → ppuRead s a = ppuRead s (0x3F00 + a % 16))) ∧
    (s.Inv → ∀ b : Nat, ppuRead (ppuWrite a v s) b =
      if ppuHome s.cart.mirroring b = ppuHome s.cart.mirroring a ∧ (0x2000 ≤ a % 0x4000 ∨ s.cart.chrBanks = 0) then
        if 0x3F00 ≤ a % 0x4000 then v &&& 0x3F else v
      else ppuRead s b)

/-- R1123 and R1124. -/
def Obligations.VblankTiming : Prop :=
  ∀ s : State, let t := ppuTick s
    (s.ppu.scanline = 241 → s.ppu.dot = 1 →
      t.ppu.vblank = true ∧ t.cpu.nmiPending = (s.cpu.nmiPending || s.ppu.ctrl.getLsbD 7) ∧
        t.host.frames = s.ppu.framebuffer :: s.host.frames) ∧
    (s.ppu.scanline = 261 → s.ppu.dot = 1 →
      t.ppu.vblank = false ∧ t.ppu.sprite0Hit = false ∧ t.ppu.spriteOverflow = false) ∧
    (¬(s.ppu.scanline = 241 ∧ s.ppu.dot = 1) → t.cpu = s.cpu ∧ t.host = s.host) ∧
    (¬(s.ppu.scanline = 241 ∧ s.ppu.dot = 1) → ¬(s.ppu.scanline = 261 ∧ s.ppu.dot = 1) →
      t.ppu.vblank = s.ppu.vblank ∧ (s.ppu.sprite0Hit = true → t.ppu.sprite0Hit = true) ∧
        (s.ppu.spriteOverflow = true → t.ppu.spriteOverflow = true))

/-- R1122, as one count: the dot number is 341 times the line plus the dot. -/
def Obligations.PpuPosition : Prop :=
  ∀ s : State, s.ppu.dot ≤ 340 → s.ppu.scanline ≤ 261 →
    let n := s.ppu.scanline * 341 + s.ppu.dot
    let t := (ppuTick s).ppu
    t.dot ≤ 340 ∧ t.scanline ≤ 261 ∧
    (¬(n = 261 * 341 + 339 ∧ s.ppu.oddFrame = true ∧ s.ppu.rendering = true) →
      t.scanline * 341 + t.dot = (n + 1) % 89342 ∧ t.oddFrame = (if n = 89341 then !s.ppu.oddFrame else s.ppu.oddFrame)) ∧
    (n = 261 * 341 + 339 ∧ s.ppu.oddFrame = true ∧ s.ppu.rendering = true → t.scanline = 0 ∧ t.dot = 0 ∧ t.oddFrame = false)

/-- R1140, counted over the 64 sprites of OAM. `rd` is any reader of pattern bytes. -/
def Obligations.SpriteEvaluation : Prop :=
  ∀ (rd : Nat → Byte) (p : Ppu),
    let h := if p.ctrl.getLsbD 5 then 16 else 8
    let hit := fun i : Nat => decide ((p.oam.read (4 * i)).toNat ≤ p.scanline ∧ p.scanline < (p.oam.read (4 * i)).toNat + h)
    let q := p.spriteDot257 rd
    q.oam = p.oam ∧ q.oamAddr = p.oamAddr ∧
    (p.rendering = true → p.scanline ≤ 239 →
      q.sprCount = min 8 ((List.range 64).countP hit) ∧
      q.spriteOverflow = (p.spriteOverflow || decide (8 < (List.range 64).countP hit)) ∧ q.sprZeroInLine = hit 0) ∧
    (¬(p.rendering = true ∧ p.scanline ≤ 239) →
      q.sprCount = 0 ∧ q.sprZeroInLine = false ∧ q.spriteOverflow = p.spriteOverflow)

/-- R1150, for a page that lies in RAM, in present PRG RAM or in ROM (a page of device ports is read through their ports, as ReadEffects says). -/
def Obligations.OamDma : Prop :=
  ∀ (v : Byte) (s : State), s.Inv → s.isMemory (mkWord v 0) = true →
    let t := busWrite 0x4014 v s
    (∀ i < 256, memoryAt s (mkWord v (BitVec.ofNat 8 i)) = some (t.ppu.oam.read ((s.ppu.oamAddr.toNat + i) % 256))) ∧
    memoryAt s (mkWord v 0xFF) = some t.openBus ∧
    t = { s with
      ppu := { s.ppu with oam := t.ppu.oam }, openBus := t.openBus
      cpu := { s.cpu with stallCycles := s.cpu.stallCycles + 513 + (s.cpu.totalCycles + s.cpu.cycles) % 2 } }

/-- R1211. -/
def Obligations.FrameInterrupt : Prop :=
  ∀ s : State, s.Inv →
    let t := apuTick s
    t.apu.frameCycle = (s.apu.frameCycle + 1) % (if s.apu.seqMode then 37282 else 29830) ∧
    t.apu.frameIrq = (s.apu.frameIrq || (!s.apu.seqMode && !s.apu.irqInhibit && s.apu.frameCycle == 29828)) ∧
    t.apu.seqMode = s.apu.seqMode ∧ t.apu.irqInhibit = s.apu.irqInhibit

/-- R1214 with the half-frame counts of R1211. -/
def Obligations.LengthCounters : Prop :=
  ∀ s : State, s.Inv →
    let n := s.apu.frameCycle + 1
    let half := n = 14913 ∨ (s.apu.seqMode = false ∧ n = 29829) ∨ (s.apu.seqMode = true ∧ n = 37281)
    let next := fun (halt : Bool) (length : Byte) => if half ∧ halt = false ∧ length ≠ 0 then length - 1 else length
    let a := (apuTick s).apu
    a.pulse1.length = next s.apu.pulse1.halt s.apu.pulse1.length ∧ a.pulse2.length = next s.apu.pulse2.halt s.apu.pulse2.length ∧
    a.triangle.length = next s.apu.triangle.control s.apu.triangle.length ∧ a.noise.length = next s.apu.noise.halt s.apu.noise.length

/-- R1239. `memoryAt` is defined at the address because the DMC reads 0x8000-0xFFFF only (part of the invariant). -/
def Obligations.DmcReader : Prop :=
  ∀ s : State, s.Inv →
    let d := s.apu.dmc
    let t := dmcFill s
    (d.bufferEmpty = false ∨ d.bytesRemaining = 0 → t = s) ∧
    (d.bufferEmpty = true → d.bytesRemaining ≠ 0 →
      memoryAt s d.currentAddr = some t.apu.dmc.sampleBuffer ∧
      let got : Dmc := { d with
        sampleBuffer := t.apu.dmc.sampleBuffer, bufferEmpty := false
        currentAddr := if d.currentAddr = 0xFFFF then 0x8000 else d.currentAddr + 1, bytesRemaining := d.bytesRemaining - 1 }
      let after := if d.bytesRemaining = 1 ∧ d.loop = true then
          { got with currentAddr := BitVec.ofNat 16 (0xC000 + d.sampleAddrReg.toNat * 64)
                     bytesRemaining := BitVec.ofNat 12 (d.sampleLengthReg.toNat * 16 + 1) }
        else got
      t = { s with
        apu := { s.apu with dmc := after, dmcIrq := s.apu.dmcIrq || (d.bytesRemaining == 1 && !d.loop && d.irqEnable) }
        cpu := { s.cpu with stallCycles := s.cpu.stallCycles + 4 }, openBus := t.apu.dmc.sampleBuffer })

/-- R1222 and R1221. -/
def Obligations.ApuStatusPort : Prop :=
  ∀ (v : Byte) (s : State),
    (let r := (busRead 0x4015 s).1
     r.getLsbD 0 = (s.apu.pulse1.length != 0) ∧ r.getLsbD 1 = (s.apu.pulse2.length != 0) ∧
     r.getLsbD 2 = (s.apu.triangle.length != 0) ∧ r.getLsbD 3 = (s.apu.noise.length != 0) ∧
     r.getLsbD 4 = (s.apu.dmc.bytesRemaining != 0) ∧ r.getLsbD 5 = s.openBus.getLsbD 5 ∧
     r.getLsbD 6 = s.apu.frameIrq ∧ r.getLsbD 7 = s.apu.dmcIrq ∧
     (busRead 0x4015 s).2 = { s with apu := { s.apu with frameIrq := false }, openBus := r }) ∧
    (let t : State := { s with apu := { s.apu with
       pulse1 := { s.apu.pulse1 with enabled := v.getLsbD 0, length := if v.getLsbD 0 then s.apu.pulse1.length else 0 }
       pulse2 := { s.apu.pulse2 with enabled := v.getLsbD 1, length := if v.getLsbD 1 then s.apu.pulse2.length else 0 }
       triangle := { s.apu.triangle with enabled := v.getLsbD 2, length := if v.getLsbD 2 then s.apu.triangle.length else 0 }
       noise := { s.apu.noise with enabled := v.getLsbD 3, length := if v.getLsbD 3 then s.apu.noise.length else 0 }
       dmcIrq := false } }
     busWrite 0x4015 v s =
       if v.getLsbD 4 = false then t.setDmc { t.apu.dmc with bytesRemaining := 0 }
       else if s.apu.dmc.bytesRemaining = 0 then dmcFill (t.setDmc t.apu.dmc.restart)
       else t)

/-- R1252: exactly n values, zero-filled; completed samples beyond n are dropped. -/
def Obligations.DrainSamples : Prop :=
  ∀ (n : Nat) (s : State),
    (drainSamples n s).1.length = n ∧
    (∀ k < n, (drainSamples n s).1[k]? = some (s.apu.out.ready.getD k 0)) ∧
    (drainSamples n s).2 = { s with apu := { s.apu with out := { s.apu.out with ready := [] } } }

/-- R271 to R273. `readPort k` is the bit of the k-th read of 0x4016 after the strobe. -/
def Obligations.ControllerPolling : Prop :=
  ∀ s : State,
    (∀ v : Byte, (busWrite 0x4016 v s).pads = (if s.pads.strobe = true ∨ v.getLsbD 0 = true then
        { strobe := v.getLsbD 0, sr0 := s.host.buttons0.pack, sr1 := s.host.buttons1.pack } else { s.pads with strobe := v.getLsbD 0 })) ∧
    (busRead 0x4016 s).1 =
      (s.openBus &&& 0xE0) ||| bitAt 0 ((if s.pads.strobe then s.host.buttons0.pack else s.pads.sr0).getLsbD 0) ∧
    (busRead 0x4017 s).1 =
      (s.openBus &&& 0xE0) ||| bitAt 0 ((if s.pads.strobe then s.host.buttons1.pack else s.pads.sr1).getLsbD 0) ∧
    (busRead 0x4016 s).2.pads = { s.pads with sr0 := if s.pads.strobe then s.host.buttons0.pack else (s.pads.sr0 >>> 1) ||| 0x80 } ∧
    (busRead 0x4017 s).2.pads = { s.pads with sr1 := if s.pads.strobe then s.host.buttons1.pack else (s.pads.sr1 >>> 1) ||| 0x80 } ∧
    ∀ k : Nat,
      readPort k (busWrite 0x4016 0 (busWrite 0x4016 1 s)) =
        let b := s.host.buttons0
        [b.a, b.b, b.select, b.start, b.up, b.down, b.left, b.right].getD k true

/-- R1315 to R1317. The fault record is not part of a snapshot. That a faulted machine answers its fault to a snapshot of another shape too is the model's choice (DESIGN CHOICE, log 26). -/
def Obligations.SaveAndRestore : Prop :=
  ∀ s t : State,
    (s.fault = none → loadState (createSaveState s) s = .ok s) ∧
    (t.fault = none → t.cart.image = s.cart.image →
      loadState (createSaveState s) t = .ok { s with fault := none, host := t.host }) ∧
    (t.fault = none → (t.cart.mapper.number ≠ s.cart.mapper.number ∨ t.cart.prgBanks ≠ s.cart.prgBanks ∨ t.cart.chrBanks ≠ s.cart.chrBanks ∨
      t.cart.battery ≠ s.cart.battery ∨ vramSize t.cart.mirroring ≠ vramSize s.cart.mirroring) →
        loadState (createSaveState s) t = .error .shapeMismatch ∧ (hostCall (.loadState (createSaveState s)) t).2 = t) ∧
    (t.fault ≠ none → loadState (createSaveState s) t = .error .faulted)

/-- R1321: such an instruction re-executes forever at 3 cycles per step and changes nothing but `totalCycles` (and openBus, R207). That a loop on open bus must hold at its second fetch too is the model's reading (DEDUCED, log 24). -/
def Obligations.IdleLoop : Prop :=
  ∀ s : State,
    (s.isMemory s.cpu.pc = true → s.isMemory (s.cpu.pc + 1) = true → s.isMemory (s.cpu.pc + 2) = true →
      (s.atIdleLoop = true ↔ memoryAt s s.cpu.pc = some 0x4C ∧ memoryAt s (s.cpu.pc + 1) = some (loByte s.cpu.pc) ∧
        memoryAt s (s.cpu.pc + 2) = some (hiByte s.cpu.pc))) ∧
    (runsInstruction s → s.atIdleLoop = true →
      ∃ (u : State) (log : List LogEvent), step s = .next (finishStep u) ∧ u.atIdleLoop = true ∧
        visible u = visible { s with
          openBus := hiByte s.cpu.pc, cpu := { s.cpu with cycles := s.cpu.stallCycles + 3, stallCycles := 0 }
          host := { s.host with log := log } } ∧
        (s.isMemory s.cpu.pc = true → log = s.host.log ∧ (finishStep u).atIdleLoop = true) ∧
        (s.isMemory s.cpu.pc = false → s.cpu.pc = 0x4C4C ∧ s.openBus = 0x4C))
end

