-- ==== Sys2Proof/Laws/Mem.lean ====
section
/-! SUPPORT. The laws of sparse tables: what a write leaves at every key, that it keeps the canonical form, and that the
canonical form makes equal contents equal data. -/

namespace Sys2Proof

/-- A canonical table from `lo` on is canonical from any lower start on. -/
theorem Sparse.wfFrom_mono {α : Type} {ok : α → Bool} {n lo lo' : Nat} {m : Sparse α} (h : Sparse.wfFrom ok n lo m = true)
    (hle : lo' ≤ lo) : Sparse.wfFrom ok n lo' m = true := by
  cases m with
  | nil => rfl
  | cons p m =>
    obtain ⟨k, v⟩ := p
    simp only [Sparse.wfFrom, Bool.and_eq_true, decide_eq_true_eq] at h ⊢
    exact ⟨⟨⟨by omega, h.1.1.2⟩, h.1.2⟩, h.2⟩

/-- Below its first key a canonical table holds nothing. -/
theorem Sparse.get_below {α : Type} {ok : α → Bool} {n lo i : Nat} (d : α) {m : Sparse α} (h : Sparse.wfFrom ok n lo m = true)
    (hi : i < lo) : Sparse.get d m i = d := by
  cases m with
  | nil => rfl
  | cons p m =>
    obtain ⟨k, v⟩ := p
    simp only [Sparse.wfFrom, Bool.and_eq_true, decide_eq_true_eq] at h
    simp only [Sparse.get]
    rw [if_pos (by omega)]

/-- A write puts its value at its key and leaves every other key alone. -/
theorem Sparse.get_put {α : Type} [DecidableEq α] {ok : α → Bool} {n lo : Nat} (d : α) {m : Sparse α}
    (h : Sparse.wfFrom ok n lo m = true) (i j : Nat) (v : α) :
    Sparse.get d (Sparse.put d m i v) j = if j = i then v else Sparse.get d m j := by
  induction m generalizing lo with
  | nil =>
    by_cases hv : v = d
    · simp [Sparse.put, Sparse.get, hv]
    · simp only [Sparse.put, hv, if_false, Sparse.get]
      by_cases h1 : j < i
      · rw [if_pos h1, if_neg (by omega)]
      · rw [if_neg h1]
  | cons p m ih =>
    obtain ⟨k, w⟩ := p
    simp only [Sparse.wfFrom, Bool.and_eq_true, decide_eq_true_eq] at h
    by_cases h1 : i < k
    · by_cases hv : v = d
      · simp only [Sparse.put, h1, hv, if_true, Sparse.get]
        by_cases hj : j = i
        · rw [if_pos (by omega), if_pos hj]
        · rw [if_neg hj]
      · simp only [Sparse.put, h1, hv, if_true, if_false, Sparse.get]
        by_cases hj : j = i
        · rw [if_neg (by omega), if_pos hj]
        · rw [if_neg hj]
          by_cases hlt : j < i
          · rw [if_pos hlt, if_pos (by omega)]
          · rw [if_neg hlt]
    · by_cases h2 : i = k
      · subst h2
        by_cases hv : v = d
        · simp only [Sparse.put, hv, lt_irrefl, if_true, if_false, Sparse.get]
          by_cases hj : j = i
          · rw [if_pos hj, Sparse.get_below d h.2 (by omega)]
          · rw [if_neg hj, if_neg hj]
            by_cases hlt : j < i
            · rw [if_pos hlt, Sparse.get_below d h.2 (by omega)]
            · rw [if_neg hlt]
        · simp only [Sparse.put, hv, lt_irrefl, if_true, if_false, Sparse.get]
          by_cases hj : j = i
          · rw [if_neg (by omega), if_pos hj, if_pos hj]
          · rw [if_neg hj, if_neg hj, if_neg hj]
      · simp only [Sparse.put, h1, h2, if_false, Sparse.get]
        rw [ih h.2]
        by_cases hj : j = i
        · rw [if_neg (by omega), if_neg (by omega), if_pos hj, if_pos hj]
        · rw [if_neg hj, if_neg hj]

/-- A write of an admissible value at a key in range keeps the canonical form. -/
theorem Sparse.put_wfFrom {α : Type} [DecidableEq α] {ok : α → Bool} {n lo : Nat} (d : α) {m : Sparse α}
    (h : Sparse.wfFrom ok n lo m = true) {i : Nat} {v : α} (hlo : lo ≤ i) (hi : i < n) (hv : v ≠ d → ok v = true) :
    Sparse.wfFrom ok n lo (Sparse.put d m i v) = true := by
  induction m generalizing lo with
  | nil =>
    by_cases hd : v = d
    · simp [Sparse.put, hd, Sparse.wfFrom]
    · simp [Sparse.put, hd, Sparse.wfFrom, hlo, hi, hv hd]
  | cons p m ih =>
    obtain ⟨k, w⟩ := p
    have hc := h
    simp only [Sparse.wfFrom, Bool.and_eq_true, decide_eq_true_eq] at h
    by_cases h1 : i < k
    · by_cases hd : v = d
      · simpa [Sparse.put, h1, hd] using hc
      · simp only [Sparse.put, h1, hd, if_true, if_false, Sparse.wfFrom, Bool.and_eq_true, decide_eq_true_eq]
        exact ⟨⟨⟨hlo, hi⟩, hv hd⟩, ⟨⟨by omega, h.1.1.2⟩, h.1.2⟩, h.2⟩
    · by_cases h2 : i = k
      · subst h2
        by_cases hd : v = d
        · simp only [Sparse.put, hd, lt_irrefl, if_true, if_false]
          exact Sparse.wfFrom_mono h.2 (by omega)
        · simp only [Sparse.put, hd, lt_irrefl, if_true, if_false, Sparse.wfFrom, Bool.and_eq_true, decide_eq_true_eq]
          exact ⟨⟨⟨hlo, hi⟩, hv hd⟩, h.2⟩
      · simp only [Sparse.put, h1, h2, if_false, Sparse.wfFrom, Bool.and_eq_true, decide_eq_true_eq]
        exact ⟨h.1, ih h.2 (by omega)⟩

/-- What a canonical table reads passes its check, or is the default. -/
theorem Sparse.get_ok {α : Type} {ok : α → Bool} {n lo : Nat} (d : α) {m : Sparse α} (h : Sparse.wfFrom ok n lo m = true) (i : Nat) :
    Sparse.get d m i = d ∨ ok (Sparse.get d m i) = true := by
  induction m generalizing lo with
  | nil => exact .inl rfl
  | cons p m ih =>
    obtain ⟨k, w⟩ := p
    simp only [Sparse.wfFrom, Bool.and_eq_true, decide_eq_true_eq] at h
    simp only [Sparse.get]
    by_cases h1 : i < k
    · rw [if_pos h1]
      exact .inl rfl
    · rw [if_neg h1]
      by_cases h2 : i = k
      · rw [if_pos h2]
        exact .inr h.1.2
      · rw [if_neg h2]
        exact ih h.2

/-- Canonical tables that read the same everywhere are the same data. -/
theorem Sparse.ext_of_get {α : Type} {ok : α → Bool} {n lo lo' : Nat} (d : α) (hd : ok d = false) {m m' : Sparse α}
    (h : Sparse.wfFrom ok n lo m = true) (h' : Sparse.wfFrom ok n lo' m' = true) (hg : ∀ i, Sparse.get d m i = Sparse.get d m' i) :
    m = m' := by
  induction m generalizing lo lo' m' with
  | nil =>
    cases m' with
    | nil => rfl
    | cons p m' =>
      obtain ⟨k, w⟩ := p
      simp only [Sparse.wfFrom, Bool.and_eq_true, decide_eq_true_eq] at h'
      have := hg k
      simp only [Sparse.get, lt_irrefl, if_false, if_true] at this
      rw [this, h'.1.2] at hd
      exact absurd hd (by decide)
  | cons p m ih =>
    obtain ⟨k, v⟩ := p
    simp only [Sparse.wfFrom, Bool.and_eq_true, decide_eq_true_eq] at h
    cases m' with
    | nil =>
      have := hg k
      simp only [Sparse.get, lt_irrefl, if_false, if_true] at this
      rw [← this, h.1.2] at hd
      exact absurd hd (by decide)
    | cons p' m' =>
      obtain ⟨k', v'⟩ := p'
      simp only [Sparse.wfFrom, Bool.and_eq_true, decide_eq_true_eq] at h'
      have hk : k = k' := by
        rcases Nat.lt_trichotomy k k' with hlt | heq | hgt
        · have := hg k
          simp only [Sparse.get, lt_irrefl, if_false, if_true, hlt] at this
          rw [← this, h.1.2] at hd
          exact absurd hd (by decide)
        · exact heq
        · have := hg k'
          simp only [Sparse.get, lt_irrefl, if_false, if_true, hgt] at this
          rw [this, h'.1.2] at hd
          exact absurd hd (by decide)
      subst hk
      have hv : v = v' := by simpa [Sparse.get] using hg k
      subst hv
      have : m = m' := by
        refine ih h.2 h'.2 (fun i => ?_)
        have := hg i
        simp only [Sparse.get] at this
        by_cases hi : i ≤ k
        · rw [Sparse.get_below d h.2 (by omega), Sparse.get_below d h'.2 (by omega)]
        · rwa [if_neg (by omega), if_neg (by omega), if_neg (by omega), if_neg (by omega)] at this
      rw [this]

/-! Memories. -/

@[simp] theorem Mem.wf_nil (n : Nat) : Mem.wf n [] = true := rfl
@[simp] theorem Mem.wf6_nil (n : Nat) : Mem.wf6 n [] = true := rfl
@[simp] theorem Mem.read_nil (i : Nat) : Mem.read [] i = 0 := rfl

/-- A write of a canonical memory, read at any address. -/
theorem Mem.read_write {n : Nat} {m : Mem} (h : m.wf n = true) (i j : Nat) (v : Byte) :
    (m.write i v).read j = if j = i then v else m.read j := Sparse.get_put 0 h i j v

theorem Mem.read_write_same {n : Nat} {m : Mem} (h : m.wf n = true) (i : Nat) (v : Byte) : (m.write i v).read i = v := by
  rw [Mem.read_write h, if_pos rfl]

theorem Mem.read_write_ne {n : Nat} {m : Mem} (h : m.wf n = true) {i j : Nat} (hne : j ≠ i) (v : Byte) :
    (m.write i v).read j = m.read j := by rw [Mem.read_write h, if_neg hne]

/-- A write in range keeps a memory canonical. -/
theorem Mem.write_wf {n : Nat} {m : Mem} (h : m.wf n = true) {i : Nat} (hi : i < n) (v : Byte) : (m.write i v).wf n = true :=
  Sparse.put_wfFrom 0 h (Nat.zero_le i) hi (by simp)

/-- The same for a memory of 6-bit entries. -/
theorem Mem.read_write6 {n : Nat} {m : Mem} (h : m.wf6 n = true) (i j : Nat) (v : Byte) :
    (m.write i v).read j = if j = i then v else m.read j := Sparse.get_put 0 h i j v

theorem Mem.write_wf6 {n : Nat} {m : Mem} (h : m.wf6 n = true) {i : Nat} (hi : i < n) {v : Byte} (hv : v.toNat < 64) :
    (m.write i v).wf6 n = true :=
  Sparse.put_wfFrom 0 h (Nat.zero_le i) hi (fun hne => by simp only [Bool.and_eq_true, bne_iff_ne, decide_eq_true_eq]; exact ⟨hne, hv⟩)

/-- An entry of a 6-bit memory has 6 bits. -/
theorem Mem.read_lt64 {n : Nat} {m : Mem} (h : m.wf6 n = true) (i : Nat) : (m.read i).toNat < 64 := by
  rcases Sparse.get_ok 0 h i with h0 | h1
  · have : m.read i = 0 := h0
    rw [this]
    decide
  · have : ((m.read i) != 0 && decide ((m.read i).toNat < 64)) = true := h1
    simp only [Bool.and_eq_true, decide_eq_true_eq] at this
    exact this.2

/-- Equal memories are equal data. -/
theorem Mem.ext {n : Nat} {m m' : Mem} (h : m.wf n = true) (h' : m'.wf n = true) (hg : ∀ i, m.read i = m'.read i) : m = m' :=
  Sparse.ext_of_get 0 (by decide) h h' hg

/-! Pictures. -/

theorem Frame.row_wf {f : Frame} (h : f.wf = true) (y : Nat) : Mem.wf6 256 (Sparse.get [] f y) = true := by
  rcases Sparse.get_ok [] h y with h0 | h1
  · rw [h0]
    rfl
  · simp only [Bool.and_eq_true] at h1
    exact h1.2

/-- A write in range keeps a picture canonical. -/
theorem Frame.write_wf {f : Frame} (h : f.wf = true) {x y : Nat} (hx : x < 256) (hy : y < 240) {c : Byte} (hc : c.toNat < 64) :
    (f.write x y c).wf = true := by
  refine Sparse.put_wfFrom [] h (Nat.zero_le y) hy (fun hne => ?_)
  have := Mem.write_wf6 (Frame.row_wf h y) hx hc
  simp only [Bool.and_eq_true, bne_iff_ne, ne_eq]
  exact ⟨hne, this⟩

/-- A written picture, read at any pixel. -/
theorem Frame.read_write {f : Frame} (h : f.wf = true) (x y x' y' : Nat) (c : Byte) :
    (f.write x y c).read x' y' = if x' = x ∧ y' = y then c else f.read x' y' := by
  have hg := Sparse.get_put [] h y y' (Mem.write (Sparse.get [] f y) x c)
  simp only [Frame.read, Frame.write]
  rw [hg]
  by_cases hy : y' = y
  · subst hy
    rw [if_pos rfl, Mem.read_write6 (Frame.row_wf h y')]
    by_cases hx : x' = x
    · simp [hx]
    · simp [hx]
  · simp [hy]

end Sys2Proof
end

