-- ==== Sys2Proof/Laws/State.lean ====
section
/-! SUPPORT. One lemma per field of State per named update, each true by unfolding, so that no proof opens a record update. -/

namespace Sys2Proof.Machine.State

@[simp] theorem setA_cpu (v : Byte) (s : State) : (s.setA v).cpu = { s.cpu with a := v } := rfl
@[simp] theorem setA_ppu (v : Byte) (s : State) : (s.setA v).ppu = s.ppu := rfl
@[simp] theorem setA_apu (v : Byte) (s : State) : (s.setA v).apu = s.apu := rfl
@[simp] theorem setA_cart (v : Byte) (s : State) : (s.setA v).cart = s.cart := rfl
@[simp] theorem setA_pads (v : Byte) (s : State) : (s.setA v).pads = s.pads := rfl
@[simp] theorem setA_ram (v : Byte) (s : State) : (s.setA v).ram = s.ram := rfl
@[simp] theorem setA_vram (v : Byte) (s : State) : (s.setA v).vram = s.vram := rfl
@[simp] theorem setA_openBus (v : Byte) (s : State) : (s.setA v).openBus = s.openBus := rfl
@[simp] theorem setA_fault (v : Byte) (s : State) : (s.setA v).fault = s.fault := rfl
@[simp] theorem setA_host (v : Byte) (s : State) : (s.setA v).host = s.host := rfl

@[simp] theorem setX_cpu (v : Byte) (s : State) : (s.setX v).cpu = { s.cpu with x := v } := rfl
@[simp] theorem setX_ppu (v : Byte) (s : State) : (s.setX v).ppu = s.ppu := rfl
@[simp] theorem setX_apu (v : Byte) (s : State) : (s.setX v).apu = s.apu := rfl
@[simp] theorem setX_cart (v : Byte) (s : State) : (s.setX v).cart = s.cart := rfl
@[simp] theorem setX_pads (v : Byte) (s : State) : (s.setX v).pads = s.pads := rfl
@[simp] theorem setX_ram (v : Byte) (s : State) : (s.setX v).ram = s.ram := rfl
@[simp] theorem setX_vram (v : Byte) (s : State) : (s.setX v).vram = s.vram := rfl
@[simp] theorem setX_openBus (v : Byte) (s : State) : (s.setX v).openBus = s.openBus := rfl
@[simp] theorem setX_fault (v : Byte) (s : State) : (s.setX v).fault = s.fault := rfl
@[simp] theorem setX_host (v : Byte) (s : State) : (s.setX v).host = s.host := rfl

@[simp] theorem setY_cpu (v : Byte) (s : State) : (s.setY v).cpu = { s.cpu with y := v } := rfl
@[simp] theorem setY_ppu (v : Byte) (s : State) : (s.setY v).ppu = s.ppu := rfl
@[simp] theorem setY_apu (v : Byte) (s : State) : (s.setY v).apu = s.apu := rfl
@[simp] theorem setY_cart (v : Byte) (s : State) : (s.setY v).cart = s.cart := rfl
@[simp] theorem setY_pads (v : Byte) (s : State) : (s.setY v).pads = s.pads := rfl
@[simp] theorem setY_ram (v : Byte) (s : State) : (s.setY v).ram = s.ram := rfl
@[simp] theorem setY_vram (v : Byte) (s : State) : (s.setY v).vram = s.vram := rfl
@[simp] theorem setY_openBus (v : Byte) (s : State) : (s.setY v).openBus = s.openBus := rfl
@[simp] theorem setY_fault (v : Byte) (s : State) : (s.setY v).fault = s.fault := rfl
@[simp] theorem setY_host (v : Byte) (s : State) : (s.setY v).host = s.host := rfl

@[simp] theorem setS_cpu (v : Byte) (s : State) : (s.setS v).cpu = { s.cpu with s := v } := rfl
@[simp] theorem setS_ppu (v : Byte) (s : State) : (s.setS v).ppu = s.ppu := rfl
@[simp] theorem setS_apu (v : Byte) (s : State) : (s.setS v).apu = s.apu := rfl
@[simp] theorem setS_cart (v : Byte) (s : State) : (s.setS v).cart = s.cart := rfl
@[simp] theorem setS_pads (v : Byte) (s : State) : (s.setS v).pads = s.pads := rfl
@[simp] theorem setS_ram (v : Byte) (s : State) : (s.setS v).ram = s.ram := rfl
@[simp] theorem setS_vram (v : Byte) (s : State) : (s.setS v).vram = s.vram := rfl
@[simp] theorem setS_openBus (v : Byte) (s : State) : (s.setS v).openBus = s.openBus := rfl
@[simp] theorem setS_fault (v : Byte) (s : State) : (s.setS v).fault = s.fault := rfl
@[simp] theorem setS_host (v : Byte) (s : State) : (s.setS v).host = s.host := rfl

@[simp] theorem setP_cpu (v : Byte) (s : State) : (s.setP v).cpu = { s.cpu with p := v } := rfl
@[simp] theorem setP_ppu (v : Byte) (s : State) : (s.setP v).ppu = s.ppu := rfl
@[simp] theorem setP_apu (v : Byte) (s : State) : (s.setP v).apu = s.apu := rfl
@[simp] theorem setP_cart (v : Byte) (s : State) : (s.setP v).cart = s.cart := rfl
@[simp] theorem setP_pads (v : Byte) (s : State) : (s.setP v).pads = s.pads := rfl
@[simp] theorem setP_ram (v : Byte) (s : State) : (s.setP v).ram = s.ram := rfl
@[simp] theorem setP_vram (v : Byte) (s : State) : (s.setP v).vram = s.vram := rfl
@[simp] theorem setP_openBus (v : Byte) (s : State) : (s.setP v).openBus = s.openBus := rfl
@[simp] theorem setP_fault (v : Byte) (s : State) : (s.setP v).fault = s.fault := rfl
@[simp] theorem setP_host (v : Byte) (s : State) : (s.setP v).host = s.host := rfl

@[simp] theorem setPc_cpu (v : Word) (s : State) : (s.setPc v).cpu = { s.cpu with pc := v } := rfl
@[simp] theorem setPc_ppu (v : Word) (s : State) : (s.setPc v).ppu = s.ppu := rfl
@[simp] theorem setPc_apu (v : Word) (s : State) : (s.setPc v).apu = s.apu := rfl
@[simp] theorem setPc_cart (v : Word) (s : State) : (s.setPc v).cart = s.cart := rfl
@[simp] theorem setPc_pads (v : Word) (s : State) : (s.setPc v).pads = s.pads := rfl
@[simp] theorem setPc_ram (v : Word) (s : State) : (s.setPc v).ram = s.ram := rfl
@[simp] theorem setPc_vram (v : Word) (s : State) : (s.setPc v).vram = s.vram := rfl
@[simp] theorem setPc_openBus (v : Word) (s : State) : (s.setPc v).openBus = s.openBus := rfl
@[simp] theorem setPc_fault (v : Word) (s : State) : (s.setPc v).fault = s.fault := rfl
@[simp] theorem setPc_host (v : Word) (s : State) : (s.setPc v).host = s.host := rfl

@[simp] theorem setEa_cpu (v : Word) (s : State) : (s.setEa v).cpu = { s.cpu with ea := v } := rfl
@[simp] theorem setEa_ppu (v : Word) (s : State) : (s.setEa v).ppu = s.ppu := rfl
@[simp] theorem setEa_apu (v : Word) (s : State) : (s.setEa v).apu = s.apu := rfl
@[simp] theorem setEa_cart (v : Word) (s : State) : (s.setEa v).cart = s.cart := rfl
@[simp] theorem setEa_pads (v : Word) (s : State) : (s.setEa v).pads = s.pads := rfl
@[simp] theorem setEa_ram (v : Word) (s : State) : (s.setEa v).ram = s.ram := rfl
@[simp] theorem setEa_vram (v : Word) (s : State) : (s.setEa v).vram = s.vram := rfl
@[simp] theorem setEa_openBus (v : Word) (s : State) : (s.setEa v).openBus = s.openBus := rfl
@[simp] theorem setEa_fault (v : Word) (s : State) : (s.setEa v).fault = s.fault := rfl
@[simp] theorem setEa_host (v : Word) (s : State) : (s.setEa v).host = s.host := rfl

@[simp] theorem setOpcode_cpu (v : Byte) (s : State) : (s.setOpcode v).cpu = { s.cpu with opcode := v } := rfl
@[simp] theorem setOpcode_ppu (v : Byte) (s : State) : (s.setOpcode v).ppu = s.ppu := rfl
@[simp] theorem setOpcode_apu (v : Byte) (s : State) : (s.setOpcode v).apu = s.apu := rfl
@[simp] theorem setOpcode_cart (v : Byte) (s : State) : (s.setOpcode v).cart = s.cart := rfl
@[simp] theorem setOpcode_pads (v : Byte) (s : State) : (s.setOpcode v).pads = s.pads := rfl
@[simp] theorem setOpcode_ram (v : Byte) (s : State) : (s.setOpcode v).ram = s.ram := rfl
@[simp] theorem setOpcode_vram (v : Byte) (s : State) : (s.setOpcode v).vram = s.vram := rfl
@[simp] theorem setOpcode_openBus (v : Byte) (s : State) : (s.setOpcode v).openBus = s.openBus := rfl
@[simp] theorem setOpcode_fault (v : Byte) (s : State) : (s.setOpcode v).fault = s.fault := rfl
@[simp] theorem setOpcode_host (v : Byte) (s : State) : (s.setOpcode v).host = s.host := rfl

@[simp] theorem addCycles_cpu (v : Nat) (s : State) : (s.addCycles v).cpu = { s.cpu with cycles := s.cpu.cycles + v } := rfl
@[simp] theorem addCycles_ppu (v : Nat) (s : State) : (s.addCycles v).ppu = s.ppu := rfl
@[simp] theorem addCycles_apu (v : Nat) (s : State) : (s.addCycles v).apu = s.apu := rfl
@[simp] theorem addCycles_cart (v : Nat) (s : State) : (s.addCycles v).cart = s.cart := rfl
@[simp] theorem addCycles_pads (v : Nat) (s : State) : (s.addCycles v).pads = s.pads := rfl
@[simp] theorem addCycles_ram (v : Nat) (s : State) : (s.addCycles v).ram = s.ram := rfl
@[simp] theorem addCycles_vram (v : Nat) (s : State) : (s.addCycles v).vram = s.vram := rfl
@[simp] theorem addCycles_openBus (v : Nat) (s : State) : (s.addCycles v).openBus = s.openBus := rfl
@[simp] theorem addCycles_fault (v : Nat) (s : State) : (s.addCycles v).fault = s.fault := rfl
@[simp] theorem addCycles_host (v : Nat) (s : State) : (s.addCycles v).host = s.host := rfl

@[simp] theorem setModeExtra_cpu (v : Nat) (s : State) : (s.setModeExtra v).cpu = { s.cpu with modeExtra := v, cycles := s.cpu.cycles + v } := rfl
@[simp] theorem setModeExtra_ppu (v : Nat) (s : State) : (s.setModeExtra v).ppu = s.ppu := rfl
@[simp] theorem setModeExtra_apu (v : Nat) (s : State) : (s.setModeExtra v).apu = s.apu := rfl
@[simp] theorem setModeExtra_cart (v : Nat) (s : State) : (s.setModeExtra v).cart = s.cart := rfl
@[simp] theorem setModeExtra_pads (v : Nat) (s : State) : (s.setModeExtra v).pads = s.pads := rfl
@[simp] theorem setModeExtra_ram (v : Nat) (s : State) : (s.setModeExtra v).ram = s.ram := rfl
@[simp] theorem setModeExtra_vram (v : Nat) (s : State) : (s.setModeExtra v).vram = s.vram := rfl
@[simp] theorem setModeExtra_openBus (v : Nat) (s : State) : (s.setModeExtra v).openBus = s.openBus := rfl
@[simp] theorem setModeExtra_fault (v : Nat) (s : State) : (s.setModeExtra v).fault = s.fault := rfl
@[simp] theorem setModeExtra_host (v : Nat) (s : State) : (s.setModeExtra v).host = s.host := rfl

@[simp] theorem setInsnExtra_cpu (v : Nat) (s : State) : (s.setInsnExtra v).cpu = { s.cpu with insnExtra := v, cycles := s.cpu.cycles + v } := rfl
@[simp] theorem setInsnExtra_ppu (v : Nat) (s : State) : (s.setInsnExtra v).ppu = s.ppu := rfl
@[simp] theorem setInsnExtra_apu (v : Nat) (s : State) : (s.setInsnExtra v).apu = s.apu := rfl
@[simp] theorem setInsnExtra_cart (v : Nat) (s : State) : (s.setInsnExtra v).cart = s.cart := rfl
@[simp] theorem setInsnExtra_pads (v : Nat) (s : State) : (s.setInsnExtra v).pads = s.pads := rfl
@[simp] theorem setInsnExtra_ram (v : Nat) (s : State) : (s.setInsnExtra v).ram = s.ram := rfl
@[simp] theorem setInsnExtra_vram (v : Nat) (s : State) : (s.setInsnExtra v).vram = s.vram := rfl
@[simp] theorem setInsnExtra_openBus (v : Nat) (s : State) : (s.setInsnExtra v).openBus = s.openBus := rfl
@[simp] theorem setInsnExtra_fault (v : Nat) (s : State) : (s.setInsnExtra v).fault = s.fault := rfl
@[simp] theorem setInsnExtra_host (v : Nat) (s : State) : (s.setInsnExtra v).host = s.host := rfl

@[simp] theorem addStall_cpu (v : Nat) (s : State) : (s.addStall v).cpu = { s.cpu with stallCycles := s.cpu.stallCycles + v } := rfl
@[simp] theorem addStall_ppu (v : Nat) (s : State) : (s.addStall v).ppu = s.ppu := rfl
@[simp] theorem addStall_apu (v : Nat) (s : State) : (s.addStall v).apu = s.apu := rfl
@[simp] theorem addStall_cart (v : Nat) (s : State) : (s.addStall v).cart = s.cart := rfl
@[simp] theorem addStall_pads (v : Nat) (s : State) : (s.addStall v).pads = s.pads := rfl
@[simp] theorem addStall_ram (v : Nat) (s : State) : (s.addStall v).ram = s.ram := rfl
@[simp] theorem addStall_vram (v : Nat) (s : State) : (s.addStall v).vram = s.vram := rfl
@[simp] theorem addStall_openBus (v : Nat) (s : State) : (s.addStall v).openBus = s.openBus := rfl
@[simp] theorem addStall_fault (v : Nat) (s : State) : (s.addStall v).fault = s.fault := rfl
@[simp] theorem addStall_host (v : Nat) (s : State) : (s.addStall v).host = s.host := rfl

@[simp] theorem start_cpu (v : Nat) (s : State) : (s.start v).cpu = { s.cpu with cycles := s.cpu.cycles + v, modeExtra := 0, insnExtra := 0 } := rfl
@[simp] theorem start_ppu (v : Nat) (s : State) : (s.start v).ppu = s.ppu := rfl
@[simp] theorem start_apu (v : Nat) (s : State) : (s.start v).apu = s.apu := rfl
@[simp] theorem start_cart (v : Nat) (s : State) : (s.start v).cart = s.cart := rfl
@[simp] theorem start_pads (v : Nat) (s : State) : (s.start v).pads = s.pads := rfl
@[simp] theorem start_ram (v : Nat) (s : State) : (s.start v).ram = s.ram := rfl
@[simp] theorem start_vram (v : Nat) (s : State) : (s.start v).vram = s.vram := rfl
@[simp] theorem start_openBus (v : Nat) (s : State) : (s.start v).openBus = s.openBus := rfl
@[simp] theorem start_fault (v : Nat) (s : State) : (s.start v).fault = s.fault := rfl
@[simp] theorem start_host (v : Nat) (s : State) : (s.start v).host = s.host := rfl

@[simp] theorem setZN_cpu (v : Byte) (s : State) : (s.setZN v).cpu = { s.cpu with p := putZN v s.cpu.p } := rfl
@[simp] theorem setZN_ppu (v : Byte) (s : State) : (s.setZN v).ppu = s.ppu := rfl
@[simp] theorem setZN_apu (v : Byte) (s : State) : (s.setZN v).apu = s.apu := rfl
@[simp] theorem setZN_cart (v : Byte) (s : State) : (s.setZN v).cart = s.cart := rfl
@[simp] theorem setZN_pads (v : Byte) (s : State) : (s.setZN v).pads = s.pads := rfl
@[simp] theorem setZN_ram (v : Byte) (s : State) : (s.setZN v).ram = s.ram := rfl
@[simp] theorem setZN_vram (v : Byte) (s : State) : (s.setZN v).vram = s.vram := rfl
@[simp] theorem setZN_openBus (v : Byte) (s : State) : (s.setZN v).openBus = s.openBus := rfl
@[simp] theorem setZN_fault (v : Byte) (s : State) : (s.setZN v).fault = s.fault := rfl
@[simp] theorem setZN_host (v : Byte) (s : State) : (s.setZN v).host = s.host := rfl

@[simp] theorem setOpenBus_cpu (v : Byte) (s : State) : (s.setOpenBus v).cpu = s.cpu := rfl
@[simp] theorem setOpenBus_ppu (v : Byte) (s : State) : (s.setOpenBus v).ppu = s.ppu := rfl
@[simp] theorem setOpenBus_apu (v : Byte) (s : State) : (s.setOpenBus v).apu = s.apu := rfl
@[simp] theorem setOpenBus_cart (v : Byte) (s : State) : (s.setOpenBus v).cart = s.cart := rfl
@[simp] theorem setOpenBus_pads (v : Byte) (s : State) : (s.setOpenBus v).pads = s.pads := rfl
@[simp] theorem setOpenBus_ram (v : Byte) (s : State) : (s.setOpenBus v).ram = s.ram := rfl
@[simp] theorem setOpenBus_vram (v : Byte) (s : State) : (s.setOpenBus v).vram = s.vram := rfl
@[simp] theorem setOpenBus_openBus (v : Byte) (s : State) : (s.setOpenBus v).openBus = v := rfl
@[simp] theorem setOpenBus_fault (v : Byte) (s : State) : (s.setOpenBus v).fault = s.fault := rfl
@[simp] theorem setOpenBus_host (v : Byte) (s : State) : (s.setOpenBus v).host = s.host := rfl

@[simp] theorem setDmc_cpu (v : Dmc) (s : State) : (s.setDmc v).cpu = s.cpu := rfl
@[simp] theorem setDmc_ppu (v : Dmc) (s : State) : (s.setDmc v).ppu = s.ppu := rfl
@[simp] theorem setDmc_apu (v : Dmc) (s : State) : (s.setDmc v).apu = { s.apu with dmc := v } := rfl
@[simp] theorem setDmc_cart (v : Dmc) (s : State) : (s.setDmc v).cart = s.cart := rfl
@[simp] theorem setDmc_pads (v : Dmc) (s : State) : (s.setDmc v).pads = s.pads := rfl
@[simp] theorem setDmc_ram (v : Dmc) (s : State) : (s.setDmc v).ram = s.ram := rfl
@[simp] theorem setDmc_vram (v : Dmc) (s : State) : (s.setDmc v).vram = s.vram := rfl
@[simp] theorem setDmc_openBus (v : Dmc) (s : State) : (s.setDmc v).openBus = s.openBus := rfl
@[simp] theorem setDmc_fault (v : Dmc) (s : State) : (s.setDmc v).fault = s.fault := rfl
@[simp] theorem setDmc_host (v : Dmc) (s : State) : (s.setDmc v).host = s.host := rfl

@[simp] theorem addLog_cpu (v : LogEvent) (s : State) : (s.addLog v).cpu = s.cpu := rfl
@[simp] theorem addLog_ppu (v : LogEvent) (s : State) : (s.addLog v).ppu = s.ppu := rfl
@[simp] theorem addLog_apu (v : LogEvent) (s : State) : (s.addLog v).apu = s.apu := rfl
@[simp] theorem addLog_cart (v : LogEvent) (s : State) : (s.addLog v).cart = s.cart := rfl
@[simp] theorem addLog_pads (v : LogEvent) (s : State) : (s.addLog v).pads = s.pads := rfl
@[simp] theorem addLog_ram (v : LogEvent) (s : State) : (s.addLog v).ram = s.ram := rfl
@[simp] theorem addLog_vram (v : LogEvent) (s : State) : (s.addLog v).vram = s.vram := rfl
@[simp] theorem addLog_openBus (v : LogEvent) (s : State) : (s.addLog v).openBus = s.openBus := rfl
@[simp] theorem addLog_fault (v : LogEvent) (s : State) : (s.addLog v).fault = s.fault := rfl
@[simp] theorem addLog_host (v : LogEvent) (s : State) : (s.addLog v).host = { s.host with log := v :: s.host.log } := rfl

end Sys2Proof.Machine.State
end

