-- ==== Sys2Proof/Laws/Bus.lean ====
section
/-! SUPPORT. Everything a bus read and a bus write can do, and the stack and pointer operations in closed form. -/

namespace Sys2Proof.Machine

/-- What a device read changes: the PPU's read side effects, the frame interrupt flag, the controller registers and the log. -/
theorem busReadDevice_does (a : Word) (s : State) : ∃ vb w rb va fi pads log, (busReadDevice a s).2 =
    { s with
      ppu := { s.ppu with vblank := vb, w := w, readBuffer := rb, vaddr := va }, apu := { s.apu with frameIrq := fi }, pads := pads
      host := { s.host with log := log } } := by
  simp only [busReadDevice]
  split
  · exact ⟨_, _, _, _, _, _, _, rfl⟩
  split
  · simp only [ppuPortRead]
    split
    · exact ⟨_, _, _, _, _, _, _, rfl⟩
    · exact ⟨_, _, _, _, _, _, _, rfl⟩
    · exact ⟨_, _, _, _, _, _, _, rfl⟩
    · exact ⟨_, _, _, _, _, _, _, rfl⟩
  split
  · exact ⟨_, _, _, _, _, _, _, rfl⟩
  split
  · exact ⟨_, _, _, _, _, _, _, rfl⟩
  split
  · exact ⟨_, _, _, _, _, _, _, rfl⟩
  split
  · exact ⟨_, _, _, _, _, _, _, rfl⟩
  split
  · exact ⟨_, _, _, _, _, _, _, rfl⟩
  simp only [readProgram]
  split
  · exact ⟨_, _, _, _, _, _, _, rfl⟩
  split
  · exact ⟨_, _, _, _, _, _, _, rfl⟩
  · exact ⟨_, _, _, _, _, _, _, rfl⟩

/-- What a bus read changes: those, and `openBus`, which takes the byte read. -/
theorem busRead_does (a : Word) (s : State) : ∃ vb w rb va fi pads log, (busRead a s).2 =
    { s with
      ppu := { s.ppu with vblank := vb, w := w, readBuffer := rb, vaddr := va }, apu := { s.apu with frameIrq := fi }, pads := pads
      openBus := (busRead a s).1, host := { s.host with log := log } } := by
  obtain ⟨vb, w, rb, va, fi, pads, log, h⟩ := busReadDevice_does a s
  exact ⟨vb, w, rb, va, fi, pads, log, by simp only [busRead, State.setOpenBus, h]⟩

@[simp] theorem busRead_openBus (a : Word) (s : State) : (busRead a s).2.openBus = (busRead a s).1 := rfl

@[simp] theorem busRead_cpu (a : Word) (s : State) : (busRead a s).2.cpu = s.cpu := by
  obtain ⟨_, _, _, _, _, _, _, h⟩ := busRead_does a s
  rw [h]

@[simp] theorem busRead_cart (a : Word) (s : State) : (busRead a s).2.cart = s.cart := by
  obtain ⟨_, _, _, _, _, _, _, h⟩ := busRead_does a s
  rw [h]

@[simp] theorem busRead_memRam (a : Word) (s : State) : (busRead a s).2.ram = s.ram := by
  obtain ⟨_, _, _, _, _, _, _, h⟩ := busRead_does a s
  rw [h]

@[simp] theorem busRead_vram (a : Word) (s : State) : (busRead a s).2.vram = s.vram := by
  obtain ⟨_, _, _, _, _, _, _, h⟩ := busRead_does a s
  rw [h]

@[simp] theorem busRead_fault (a : Word) (s : State) : (busRead a s).2.fault = s.fault := by
  obtain ⟨_, _, _, _, _, _, _, h⟩ := busRead_does a s
  rw [h]

@[simp] theorem busRead_oam (a : Word) (s : State) : (busRead a s).2.ppu.oam = s.ppu.oam := by
  obtain ⟨_, _, _, _, _, _, _, h⟩ := busRead_does a s
  rw [h]

@[simp] theorem busRead_palette (a : Word) (s : State) : (busRead a s).2.ppu.palette = s.ppu.palette := by
  obtain ⟨_, _, _, _, _, _, _, h⟩ := busRead_does a s
  rw [h]

/-- A read of RAM gives the byte and changes `openBus` only. -/
theorem busRead_low {a : Word} (h : a.toNat ≤ 0x1FFF) (s : State) :
    busRead a s = (s.ram.read (a.toNat % 0x800), s.setOpenBus (s.ram.read (a.toNat % 0x800))) := by
  simp only [busRead, busReadDevice, h, if_true]

/-- A read of the cartridge's program space gives the mapped byte and changes `openBus` only. -/
theorem busRead_high {a : Word} (h : 0x8000 ≤ a.toNat) (s : State) :
    busRead a s = (s.cart.prgByte a.toNat, s.setOpenBus (s.cart.prgByte a.toNat)) := by
  have h1 : ¬a.toNat ≤ 0x1FFF := by omega
  have h2 : ¬a.toNat ≤ 0x3FFF := by omega
  have h3 : ¬a.toNat ≤ 0x4014 := by omega
  have h4 : ¬a.toNat = 0x4015 := by omega
  have h5 : ¬a.toNat = 0x4016 := by omega
  have h6 : ¬a.toNat = 0x4017 := by omega
  have h7 : ¬a.toNat ≤ 0x5FFF := by omega
  simp only [busRead, busReadDevice, h1, h2, h3, h4, h5, h6, h7, readProgram, h, if_true, if_false]

/-- A read of PRG RAM gives the byte and changes `openBus` only. -/
theorem busRead_prgRam {a : Word} (h : 0x6000 ≤ a.toNat) (h' : a.toNat ≤ 0x7FFF) {s : State} (hp : s.cart.prgRamPresent = true) :
    busRead a s = (s.cart.prgRam.read (a.toNat - 0x6000), s.setOpenBus (s.cart.prgRam.read (a.toNat - 0x6000))) := by
  have h1 : ¬a.toNat ≤ 0x1FFF := by omega
  have h2 : ¬a.toNat ≤ 0x3FFF := by omega
  have h3 : ¬a.toNat ≤ 0x4014 := by omega
  have h4 : ¬a.toNat = 0x4015 := by omega
  have h5 : ¬a.toNat = 0x4016 := by omega
  have h6 : ¬a.toNat = 0x4017 := by omega
  have h7 : ¬a.toNat ≤ 0x5FFF := by omega
  have h8 : ¬0x8000 ≤ a.toNat := by omega
  simp only [busRead, busReadDevice, h1, h2, h3, h4, h5, h6, h7, readProgram, h8, hp, if_true, if_false]

/-- No read looks at the CPU or changes it. -/
theorem busReadDevice_withCpu (a : Word) (s : State) (c : Cpu) :
    busReadDevice a { s with cpu := c } = ((busReadDevice a s).1, { (busReadDevice a s).2 with cpu := c }) := by
  simp only [busReadDevice]
  split
  · rfl
  split
  · simp only [ppuPortRead]
    split <;> rfl
  split
  · rfl
  split
  · rfl
  split
  · rfl
  split
  · rfl
  split
  · rfl
  simp only [readProgram]
  split
  · rfl
  split <;> rfl

theorem busRead_withCpu (a : Word) (s : State) (c : Cpu) :
    busRead a { s with cpu := c } = ((busRead a s).1, { (busRead a s).2 with cpu := c }) := by
  simp only [busRead, busReadDevice_withCpu, State.setOpenBus]

/-! Writes. -/

/-- A store to RAM changes that byte only. -/
theorem busWrite_low {a : Word} (h : a.toNat ≤ 0x1FFF) (v : Byte) (s : State) :
    busWrite a v s = { s with ram := s.ram.write (a.toNat % 0x800) v } := by
  simp only [busWrite, h, if_true]

/-- A write to the cartridge's program space is the mapper's. -/
theorem busWrite_high {a : Word} (h : 0x8000 ≤ a.toNat) (v : Byte) (s : State) : busWrite a v s = writeRom a.toNat v s := by
  have h1 : ¬a.toNat ≤ 0x1FFF := by omega
  have h2 : ¬a.toNat ≤ 0x3FFF := by omega
  have h3 : ¬(a.toNat ≤ 0x4013 ∨ a.toNat = 0x4015) := by omega
  have h4 : ¬a.toNat = 0x4014 := by omega
  have h5 : ¬a.toNat = 0x4016 := by omega
  have h6 : ¬a.toNat = 0x4017 := by omega
  have h7 : ¬a.toNat ≤ 0x5FFF := by omega
  simp only [busWrite, h1, h2, h3, h4, h5, h6, h7, writeProgram, h, if_true, if_false]

/-- A store to PRG RAM changes that byte only. -/
theorem busWrite_prgRam {a : Word} (h : 0x6000 ≤ a.toNat) (h' : a.toNat ≤ 0x7FFF) {s : State} (hp : s.cart.prgRamPresent = true)
    (v : Byte) : busWrite a v s = { s with cart := { s.cart with prgRam := s.cart.prgRam.write (a.toNat - 0x6000) v } } := by
  have h1 : ¬a.toNat ≤ 0x1FFF := by omega
  have h2 : ¬a.toNat ≤ 0x3FFF := by omega
  have h3 : ¬(a.toNat ≤ 0x4013 ∨ a.toNat = 0x4015) := by omega
  have h4 : ¬a.toNat = 0x4014 := by omega
  have h5 : ¬a.toNat = 0x4016 := by omega
  have h6 : ¬a.toNat = 0x4017 := by omega
  have h7 : ¬a.toNat ≤ 0x5FFF := by omega
  have h8 : ¬0x8000 ≤ a.toNat := by omega
  simp only [busWrite, h1, h2, h3, h4, h5, h6, h7, writeProgram, h8, hp, if_true, if_false]

/-! The device ports, one equation each. -/

/-- A read of a PPU port. -/
theorem busRead_ppuPort {a : Word} (h : 0x2000 ≤ a.toNat) (h' : a.toNat ≤ 0x3FFF) (s : State) :
    busRead a s = ((ppuPortRead (a.toNat % 8) s).1, (ppuPortRead (a.toNat % 8) s).2.setOpenBus (ppuPortRead (a.toNat % 8) s).1) := by
  have h1 : ¬a.toNat ≤ 0x1FFF := by omega
  simp only [busRead, busReadDevice, h1, h', if_true, if_false]

theorem busRead_4015 (s : State) : busRead 0x4015 s = ((apuStatusRead s).1, (apuStatusRead s).2.setOpenBus (apuStatusRead s).1) := rfl

theorem busRead_4016 (s : State) :
    busRead 0x4016 s = ((controllerRead0 s).1, (controllerRead0 s).2.setOpenBus (controllerRead0 s).1) := rfl

theorem busRead_4017 (s : State) :
    busRead 0x4017 s = ((controllerRead1 s).1, (controllerRead1 s).2.setOpenBus (controllerRead1 s).1) := rfl

/-- A read of a write-only register answers open bus and changes nothing (20_memory R209). -/
theorem busRead_writeOnly {a : Word} (h : 0x4000 ≤ a.toNat) (h' : a.toNat ≤ 0x4014) (s : State) : busRead a s = (s.openBus, s) := by
  have h1 : ¬a.toNat ≤ 0x1FFF := by omega
  have h2 : ¬a.toNat ≤ 0x3FFF := by omega
  simp only [busRead, busReadDevice, h1, h2, h', if_true, if_false]
  rfl

/-- A read of an unmapped address answers open bus and is logged (20_memory R210). -/
theorem busRead_unmapped {a : Word} (h : 0x4018 ≤ a.toNat) (h' : a.toNat ≤ 0x5FFF) (s : State) :
    busRead a s = (s.openBus, s.addLog (.unmappedRead a.toNat)) := by
  have h1 : ¬a.toNat ≤ 0x1FFF := by omega
  have h2 : ¬a.toNat ≤ 0x3FFF := by omega
  have h3 : ¬a.toNat ≤ 0x4014 := by omega
  have h4 : ¬a.toNat = 0x4015 := by omega
  have h5 : ¬a.toNat = 0x4016 := by omega
  have h6 : ¬a.toNat = 0x4017 := by omega
  simp only [busRead, busReadDevice, h1, h2, h3, h4, h5, h6, h', if_true, if_false]
  rfl

/-- A read of absent PRG RAM answers open bus and is logged (20_memory R246). -/
theorem busRead_noPrgRam {a : Word} (h : 0x6000 ≤ a.toNat) (h' : a.toNat ≤ 0x7FFF) {s : State} (hp : s.cart.prgRamPresent = false) :
    busRead a s = (s.openBus, s.addLog (.unmappedRead a.toNat)) := by
  have h1 : ¬a.toNat ≤ 0x1FFF := by omega
  have h2 : ¬a.toNat ≤ 0x3FFF := by omega
  have h3 : ¬a.toNat ≤ 0x4014 := by omega
  have h4 : ¬a.toNat = 0x4015 := by omega
  have h5 : ¬a.toNat = 0x4016 := by omega
  have h6 : ¬a.toNat = 0x4017 := by omega
  have h7 : ¬a.toNat ≤ 0x5FFF := by omega
  have h8 : ¬0x8000 ≤ a.toNat := by omega
  simp only [busRead, busReadDevice, h1, h2, h3, h4, h5, h6, h7, readProgram, h8, hp, Bool.false_eq_true, if_false]
  rfl

/-- A read of a write-only PPU port answers open bus and changes nothing (61_ppu R1112). -/
theorem busRead_writeOnlyPort {a : Word} (h : 0x2000 ≤ a.toNat) (h' : a.toNat ≤ 0x3FFF)
    (hk : a.toNat % 8 ≠ 2 ∧ a.toNat % 8 ≠ 4 ∧ a.toNat % 8 ≠ 7) (s : State) : busRead a s = (s.openBus, s) := by
  have hp : ppuPortRead (a.toNat % 8) s = (s.openBus, s) := by
    obtain ⟨h2, h4, h7⟩ := hk
    unfold ppuPortRead
    split <;> first | omega | rfl
  rw [busRead_ppuPort h h', hp]
  rfl

/-- A write to a PPU port. -/
theorem busWrite_ppuPort {a : Word} (h : 0x2000 ≤ a.toNat) (h' : a.toNat ≤ 0x3FFF) (v : Byte) (s : State) :
    busWrite a v s = ppuPortWrite (a.toNat % 8) v s := by
  have h1 : ¬a.toNat ≤ 0x1FFF := by omega
  simp only [busWrite, h1, h', if_true, if_false]

theorem busWrite_4014 (v : Byte) (s : State) : busWrite 0x4014 v s = oamDma v s := rfl

theorem busWrite_4015 (v : Byte) (s : State) : busWrite 0x4015 v s = apuEnableWrite v s := rfl

theorem busWrite_4016 (v : Byte) (s : State) : busWrite 0x4016 v s = controllerStrobe v s := rfl

/-! Addresses. -/

@[simp] theorem zext16_toNat (v : Byte) : (zext16 v).toNat = v.toNat := by
  simp [zext16, BitVec.toNat_setWidth]
  omega

@[simp] theorem stackAddr_toNat (sp : Byte) : (stackAddr sp).toNat = 0x100 + sp.toNat := by
  simp [stackAddr, BitVec.toNat_add]
  omega

theorem stackAddr_mod (sp : Byte) : (0x100 + sp.toNat) % 0x800 = 0x100 + sp.toNat := by omega

/-! The stack operations. -/

/-- A push writes one byte of page 1 and moves S down. -/
theorem push8_eq (v : Byte) (s : State) :
    push8 v s = { s with ram := s.ram.write (0x100 + s.cpu.s.toNat) v, cpu := { s.cpu with s := s.cpu.s - 1 } } := by
  have h : (stackAddr s.cpu.s).toNat ≤ 0x1FFF := by rw [stackAddr_toNat]; omega
  simp only [push8, busWrite_low h, stackAddr_toNat, stackAddr_mod, State.setS]

/-- A pull moves S up and reads one byte of page 1. -/
theorem pull8_eq (s : State) :
    pull8 s = (s.ram.read (0x100 + (s.cpu.s + 1).toNat),
      { s with cpu := { s.cpu with s := s.cpu.s + 1 }, openBus := s.ram.read (0x100 + (s.cpu.s + 1).toNat) }) := by
  have h : (stackAddr (s.cpu.s + 1)).toNat ≤ 0x1FFF := by rw [stackAddr_toNat]; omega
  have hp : pull8 s = busRead (stackAddr (s.cpu.s + 1)) (s.setS (s.cpu.s + 1)) := rfl
  simp only [hp, busRead_low h, stackAddr_toNat, stackAddr_mod, State.setS, State.setOpenBus]

/-- A 16-bit push: the high byte at S, the low byte below it. -/
theorem push16_eq (w : Word) (s : State) :
    push16 w s =
      { s with
        ram := (s.ram.write (0x100 + s.cpu.s.toNat) (hiByte w)).write (0x100 + (s.cpu.s - 1).toNat) (loByte w)
        cpu := { s.cpu with s := s.cpu.s - 1 - 1 } } := by
  simp only [push16, push8_eq]

/-- A 16-bit pull: the low byte first. -/
theorem pull16_eq (s : State) :
    pull16 s = (mkWord (s.ram.read (0x100 + (s.cpu.s + 1 + 1).toNat)) (s.ram.read (0x100 + (s.cpu.s + 1).toNat)),
      { s with cpu := { s.cpu with s := s.cpu.s + 1 + 1 }, openBus := s.ram.read (0x100 + (s.cpu.s + 1 + 1).toNat) }) := by
  simp only [pull16, pull8_eq]

/-- A zero-page pointer's two reads. -/
theorem read16Zp_eq (z : Byte) (s : State) :
    read16Zp z s = (mkWord (s.ram.read (z + 1).toNat) (s.ram.read z.toNat), s.setOpenBus (s.ram.read (z + 1).toNat)) := by
  have h (b : Byte) : (zext16 b).toNat ≤ 0x1FFF := by rw [zext16_toNat]; omega
  have hm (b : Byte) : b.toNat % 0x800 = b.toNat := by omega
  simp only [read16Zp, read16At, busRead_low (h _), zext16_toNat, hm, State.setOpenBus]

/-- A 16-bit read of the cartridge's program space. -/
theorem read16_high {a : Word} (h : 0x8000 ≤ a.toNat) (h' : a.toNat < 0xFFFF) (s : State) :
    read16 a s = (mkWord (s.cart.prgByte (a.toNat + 1)) (s.cart.prgByte a.toNat), s.setOpenBus (s.cart.prgByte (a.toNat + 1))) := by
  have h1 : (a + 1).toNat = a.toNat + 1 := by rw [BitVec.toNat_add]; simp; omega
  have h2 : 0x8000 ≤ (a + 1).toNat := by omega
  simp only [read16, read16At, busRead_high h, busRead_high h2, h1, State.setOpenBus]

/-- The interrupt entry: three bytes pushed, I set, PC from a vector of the program space. -/
theorem enterInterrupt_eq (savedP : Byte) {vector : Word} (h : 0x8000 ≤ vector.toNat) (h' : vector.toNat < 0xFFFF) (s : State) :
    enterInterrupt savedP vector s =
      { s with
        ram := ((s.ram.write (0x100 + s.cpu.s.toNat) (hiByte s.cpu.pc)).write (0x100 + (s.cpu.s - 1).toNat) (loByte s.cpu.pc)).write
          (0x100 + (s.cpu.s - 1 - 1).toNat) savedP
        openBus := s.cart.prgByte (vector.toNat + 1)
        cpu := { s.cpu with
          s := s.cpu.s - 1 - 1 - 1, p := putBit s.cpu.p 2 true
          pc := mkWord (s.cart.prgByte (vector.toNat + 1)) (s.cart.prgByte vector.toNat) } } := by
  simp only [enterInterrupt, push8_eq, push16_eq, read16_high h h', State.setP, State.setPc, State.setOpenBus]

/-- The return from an interrupt: P, then PC, pulled. -/
theorem returnFromInterrupt_eq (s : State) :
    returnFromInterrupt s =
      { s with
        openBus := s.ram.read (0x100 + (s.cpu.s + 1 + 1 + 1).toNat)
        cpu := { s.cpu with
          s := s.cpu.s + 1 + 1 + 1, p := pulledP (s.ram.read (0x100 + (s.cpu.s + 1).toNat))
          pc := mkWord (s.ram.read (0x100 + (s.cpu.s + 1 + 1 + 1).toNat)) (s.ram.read (0x100 + (s.cpu.s + 1 + 1).toNat)) } } := by
  simp only [returnFromInterrupt, pull8_eq, pull16_eq, State.setP, State.setPc]

end Sys2Proof.Machine
end

