-- ==== Sys2Proof/Laws/Operands.lean ====
section
/-! SUPPORT. Each operand resolver in closed form: the effective address, the extra cycle, and the pointer reads' `openBus`. -/

namespace Sys2Proof.Machine

theorem resolveZp_eq (z : Byte) (s : State) : resolveZp z s = { s with cpu := { s.cpu with ea := zext16 z } } := rfl

theorem resolveZpx_eq (z : Byte) (s : State) : resolveZpx z s = { s with cpu := { s.cpu with ea := zext16 (z + s.cpu.x) } } := rfl

theorem resolveZpy_eq (z : Byte) (s : State) : resolveZpy z s = { s with cpu := { s.cpu with ea := zext16 (z + s.cpu.y) } } := rfl

theorem resolveAbs_eq (a : Word) (s : State) : resolveAbs a s = { s with cpu := { s.cpu with ea := a } } := rfl

/-- The extra cycle of a page cross. -/
def crossCycles (penalty : Bool) (base target : Word) : Nat := if penalty && pageCross base target then 1 else 0

theorem resolveAbx_eq (penalty : Bool) (a : Word) (s : State) :
    resolveAbx penalty a s =
      { s with cpu := { s.cpu with
          ea := a + zext16 s.cpu.x, modeExtra := crossCycles penalty a (a + zext16 s.cpu.x)
          cycles := s.cpu.cycles + crossCycles penalty a (a + zext16 s.cpu.x) } } := rfl

theorem resolveAby_eq (penalty : Bool) (a : Word) (s : State) :
    resolveAby penalty a s =
      { s with cpu := { s.cpu with
          ea := a + zext16 s.cpu.y, modeExtra := crossCycles penalty a (a + zext16 s.cpu.y)
          cycles := s.cpu.cycles + crossCycles penalty a (a + zext16 s.cpu.y) } } := rfl

/-- The word a zero-page pointer holds. -/
def zpWord (z : Byte) (s : State) : Word := mkWord (s.ram.read (z + 1).toNat) (s.ram.read z.toNat)

theorem resolveIzx_eq (z : Byte) (s : State) :
    resolveIzx z s =
      { s with openBus := s.ram.read (z + s.cpu.x + 1).toNat, cpu := { s.cpu with ea := zpWord (z + s.cpu.x) s } } := by
  simp only [resolveIzx, read16Zp_eq, State.setEa, State.setOpenBus, zpWord]

theorem resolveIzy_eq (penalty : Bool) (z : Byte) (s : State) :
    resolveIzy penalty z s =
      { s with
        openBus := s.ram.read (z + 1).toNat
        cpu := { s.cpu with
          ea := zpWord z s + zext16 s.cpu.y, modeExtra := crossCycles penalty (zpWord z s) (zpWord z s + zext16 s.cpu.y)
          cycles := s.cpu.cycles + crossCycles penalty (zpWord z s) (zpWord z s + zext16 s.cpu.y) } } := by
  simp only [resolveIzy, read16Zp_eq]
  rfl

/-- The Indirect mode's two reads: neither looks at the CPU or changes it. -/
theorem resolveInd_eq (ptr : Word) (s : State) :
    resolveInd ptr s = { (read16Wrap ptr s).2 with cpu := { s.cpu with ea := (read16Wrap ptr s).1 } } := by
  simp only [resolveInd, read16Wrap, read16At, State.setEa, busRead_cpu]

theorem read16Wrap_withCpu (ptr : Word) (s : State) (c : Cpu) :
    read16Wrap ptr { s with cpu := c } = ((read16Wrap ptr s).1, { (read16Wrap ptr s).2 with cpu := c }) := by
  simp only [read16Wrap, read16At, busRead_withCpu]

end Sys2Proof.Machine
end

