-- ==== Sys2Proof/Laws/Claims.lean ====
section
/-! SUPPORT. The statements' vocabulary: P by name, operands by constructor, and when memory reads as before. -/

namespace Sys2Proof.Claims

open Sys2Proof.Machine

-- One theorem at a time: several wait on the kernel, and each waiting theorem would hold a thread of its own.
set_option Elab.async false

/-! P by name. -/

@[simp] theorem pack_flags : ∀ p : Byte, (flags p).pack = p := by decide +kernel
@[simp] theorem flags_putN : ∀ (b : Bool) (p : Byte), flags (putN b p) = { flags p with n := b } := by decide +kernel
@[simp] theorem flags_putV : ∀ (b : Bool) (p : Byte), flags (putV b p) = { flags p with v := b } := by decide +kernel
@[simp] theorem flags_putD : ∀ (b : Bool) (p : Byte), flags (putD b p) = { flags p with d := b } := by decide +kernel
@[simp] theorem flags_putI : ∀ (b : Bool) (p : Byte), flags (putI b p) = { flags p with i := b } := by decide +kernel
@[simp] theorem flags_putZ : ∀ (b : Bool) (p : Byte), flags (putZ b p) = { flags p with z := b } := by decide +kernel
@[simp] theorem flags_putC : ∀ (b : Bool) (p : Byte), flags (putC b p) = { flags p with c := b } := by decide +kernel
@[simp] theorem flags_pulledP : ∀ p : Byte, flags (pulledP p) = { flags p with u := true, b := false } := by decide +kernel
@[simp] theorem flags_pushedIrq : ∀ p : Byte, flags (pushedIrq p) = { flags p with u := true, b := false } := by decide +kernel
@[simp] theorem flags_pushedBreak : ∀ p : Byte, flags (pushedBreak p) = { flags p with u := true, b := true } := by decide +kernel

/-- A P is its flags. -/
theorem eq_pack {p : Byte} {f : Flags} (h : flags p = f) : p = f.pack := by rw [← h, pack_flags]

theorem putZN_eq (r p : Byte) : putZN r p = znOf r p := eq_pack (by simp only [putZN, flags_putN, flags_putZ])

/-! When memory reads as before. -/

/-- The byte of CPU memory depends on RAM and the cartridge only. -/
theorem memoryAt_congr {s t : State} (hr : t.ram = s.ram) (hc : t.cart = s.cart) (a : Word) : memoryAt t a = memoryAt s a := by
  unfold memoryAt
  have hm : t.isMemory a = s.isMemory a := by simp only [State.isMemory, hc]
  rw [hm]
  split
  · rename_i h
    by_cases h1 : a.toNat ≤ 0x1FFF
    · rw [busRead_low h1, busRead_low h1, hr]
    · by_cases h2 : 0x8000 ≤ a.toNat
      · rw [busRead_high h2, busRead_high h2, hc]
      · simp only [State.isMemory, h1, h2, decide_false, Bool.or_false, Bool.false_or, Bool.and_eq_true, decide_eq_true_eq] at h
        rw [busRead_prgRam h.1 (by omega) (by rw [hc]; exact h.2), busRead_prgRam h.1 (by omega) h.2, hc]
  · rfl

/-- A read of memory gives its byte and changes `openBus` only. -/
theorem busRead_memory {s : State} {a : Word} (h : s.isMemory a = true) :
    ∃ v, memoryAt s a = some v ∧ busRead a s = (v, s.setOpenBus v) := by
  refine ⟨(busRead a s).1, by simp only [memoryAt, h, if_true], ?_⟩
  by_cases h1 : a.toNat ≤ 0x1FFF
  · rw [busRead_low h1]
  · by_cases h2 : 0x8000 ≤ a.toNat
    · rw [busRead_high h2]
    · simp only [State.isMemory, h1, h2, decide_false, Bool.or_false, Bool.false_or, Bool.and_eq_true, decide_eq_true_eq] at h
      rw [busRead_prgRam h.1 (by omega) h.2]

/-- Memory reads as before when RAM, the cartridge, VRAM, the palette and OAM are the same. -/
theorem memoryKept_of {s t : State} (hr : t.ram = s.ram) (hc : t.cart = s.cart) (hv : t.vram = s.vram)
    (hp : t.ppu.palette = s.ppu.palette) (ho : t.ppu.oam = s.ppu.oam) : MemoryKept s t :=
  ⟨memoryAt_congr hr hc, fun a => by simp only [ppuRead, hc, hv, hp], fun k => by rw [ho]⟩

end Sys2Proof.Claims
end

