-- ==== Sys2Proof/Laws/Exec.lean ====
section
/-! SUPPORT. What `exec` answers, once per access class of 40_addressing_load_store R401 and for every instruction of the class,
so that a proof about an instruction needs no case split over its forms. -/

namespace Sys2Proof.Claims

open Sys2Proof.Machine

/-- What a resolver leaves at the start of an instruction: the address, the extra cycle counted, the pointer read. -/
def Resolves (i : Instr) (resolve : State → State) : Prop :=
  ∀ s, ∃ me, resolve (s.start i.cycles) =
    { resolved i s with cpu := { s.cpu with ea := address i s, modeExtra := me, insnExtra := 0, cycles := spent i s } }

theorem op8_of {i : Instr} {z : Byte} (h : i.operand = z.toNat) : op8 i = z := by
  simp only [op8, h, BitVec.ofNat_toNat, BitVec.setWidth_eq]

theorem op16_of {i : Instr} {a : Word} (h : i.operand = a.toNat) : op16 i = a := by
  simp only [op16, h, BitVec.ofNat_toNat, BitVec.setWidth_eq]

theorem resolves_zp {i : Instr} {z : Byte} (hm : i.mode = .zeroPage) (hp : i.penalty = false) (ho : i.operand = z.toNat) :
    Resolves i (resolveZp z) := by
  intro s
  refine ⟨0, ?_⟩
  simp only [resolveZp_eq, State.start, resolved, address, baseAddress, spent, modeCycles, hm, hp, op8_of ho, Bool.false_and]
  rfl

theorem resolves_zpx {i : Instr} {z : Byte} (hm : i.mode = .zeroPageX) (hp : i.penalty = false) (ho : i.operand = z.toNat) :
    Resolves i (resolveZpx z) := by
  intro s
  refine ⟨0, ?_⟩
  simp only [resolveZpx_eq, State.start, resolved, address, baseAddress, spent, modeCycles, hm, hp, op8_of ho, Bool.false_and]
  rfl

theorem resolves_zpy {i : Instr} {z : Byte} (hm : i.mode = .zeroPageY) (hp : i.penalty = false) (ho : i.operand = z.toNat) :
    Resolves i (resolveZpy z) := by
  intro s
  refine ⟨0, ?_⟩
  simp only [resolveZpy_eq, State.start, resolved, address, baseAddress, spent, modeCycles, hm, hp, op8_of ho, Bool.false_and]
  rfl

theorem resolves_abs {i : Instr} {a : Word} (hm : i.mode = .absolute) (hp : i.penalty = false) (ho : i.operand = a.toNat) :
    Resolves i (resolveAbs a) := by
  intro s
  refine ⟨0, ?_⟩
  simp only [resolveAbs_eq, State.start, resolved, address, baseAddress, spent, modeCycles, hm, hp, op16_of ho, Bool.false_and]
  rfl

theorem resolves_abx {i : Instr} {a : Word} {p : Bool} (hm : i.mode = .absoluteX) (hp : i.penalty = p) (ho : i.operand = a.toNat) :
    Resolves i (resolveAbx p a) := by
  intro s
  refine ⟨modeCycles i s, ?_⟩
  simp only [resolveAbx_eq, State.start, resolved, address, baseAddress, spent, modeCycles, hm, hp, op16_of ho, crossCycles]

theorem resolves_aby {i : Instr} {a : Word} {p : Bool} (hm : i.mode = .absoluteY) (hp : i.penalty = p) (ho : i.operand = a.toNat) :
    Resolves i (resolveAby p a) := by
  intro s
  refine ⟨modeCycles i s, ?_⟩
  simp only [resolveAby_eq, State.start, resolved, address, baseAddress, spent, modeCycles, hm, hp, op16_of ho, crossCycles]

theorem resolves_izx {i : Instr} {z : Byte} (hm : i.mode = .indexedIndirectX) (hp : i.penalty = false)
    (ho : i.operand = z.toNat) : Resolves i (resolveIzx z) := by
  intro s
  refine ⟨0, ?_⟩
  simp only [resolveIzx_eq, State.start, resolved, address, baseAddress, spent, modeCycles, hm, hp, op8_of ho, Bool.false_and,
    read16Zp_eq]
  rfl

theorem resolves_izy {i : Instr} {z : Byte} {p : Bool} (hm : i.mode = .indirectIndexedY) (hp : i.penalty = p)
    (ho : i.operand = z.toNat) : Resolves i (resolveIzy p z) := by
  intro s
  refine ⟨modeCycles i s, ?_⟩
  simp only [resolveIzy_eq, State.start, resolved, address, baseAddress, spent, modeCycles, hm, hp, op8_of ho, read16Zp_eq]
  rfl

theorem resolves_ind {i : Instr} {a : Word} (hm : i.mode = .indirect) (hp : i.penalty = false) (ho : i.operand = a.toNat) :
    Resolves i (resolveInd a) := by
  intro s
  refine ⟨0, ?_⟩
  simp only [resolveInd_eq, State.start, resolved, address, baseAddress, spent, modeCycles, hm, hp, op16_of ho, Bool.false_and,
    read16Wrap_withCpu]
  rfl

/-! The read class. -/

/-- The operation of a read-class instruction. -/
def readOp : Mnemonic → Option (Byte → State → State)
  | .lda => some loadA
  | .ldx => some loadX
  | .ldy => some loadY
  | .adc => some adcA
  | .sbc => some sbcA
  | .and => some andA
  | .ora => some oraA
  | .eor => some eorA
  | .bit => some bitA
  | .cmp => some cmpA
  | .cpx => some cpxX
  | .cpy => some cpyY
  | _ => none

theorem resolved_cpu (i : Instr) (s : State) : (resolved i s).cpu = s.cpu := by
  simp only [resolved, baseAddress]
  split <;> simp [read16Wrap, read16Zp, read16At]

theorem readMem_next {i : Instr} {resolve : State → State} (h : Resolves i resolve) (h1 : i.mode ≠ .immediate)
    (h2 : i.mode ≠ .accumulator) (op : Byte → State → State) (s : State) :
    ∃ ea me, readMem i.cycles resolve op s = .next (op (operandM i s).1
      { (operandM i s).2 with cpu := { s.cpu with ea := ea, modeExtra := me, insnExtra := 0, cycles := spent i s } }) := by
  obtain ⟨me, hr⟩ := h s
  refine ⟨address i s, me, ?_⟩
  have ho : operandM i s = busRead (address i s) (resolved i s) := by
    unfold operandM
    split
    · contradiction
    · contradiction
    · rfl
  simp only [readMem, hr, ho, busRead_withCpu]

theorem readImm_next {i : Instr} {v : Byte} (hm : i.mode = .immediate) (ho : i.operand = v.toNat) (hp : i.penalty = false)
    (op : Byte → State → State) (s : State) :
    ∃ ea me, readImm i.cycles op v s = .next (op (operandM i s).1
      { (operandM i s).2 with cpu := { s.cpu with ea := ea, modeExtra := me, insnExtra := 0, cycles := spent i s } }) := by
  refine ⟨s.cpu.ea, 0, ?_⟩
  simp only [readImm, operandM, hm, op8_of ho, State.start, spent, modeCycles, hp, Bool.false_and]
  rfl

/-- Every read-class instruction applies its operation to its operand. -/
theorem exec_read {i : Instr} {op : Byte → State → State} (h : readOp i.mnemonic = some op) (s : State) :
    ∃ ea me, exec i s = .next (op (operandM i s).1
      { (operandM i s).2 with cpu := { s.cpu with ea := ea, modeExtra := me, insnExtra := 0, cycles := spent i s } }) := by
  cases i <;> simp only [Instr.mnemonic, readOp, reduceCtorEq, Option.some.injEq] at h <;> subst h
  case ldaIzx z => exact readMem_next (i := .ldaIzx z) (resolves_izx rfl rfl rfl) nofun nofun _ s
  case ldaZp z => exact readMem_next (i := .ldaZp z) (resolves_zp rfl rfl rfl) nofun nofun _ s
  case ldaImm v => exact readImm_next (i := .ldaImm v) rfl rfl rfl _ s
  case ldaAbs a => exact readMem_next (i := .ldaAbs a) (resolves_abs rfl rfl rfl) nofun nofun _ s
  case ldaIzy z => exact readMem_next (i := .ldaIzy z) (resolves_izy rfl rfl rfl) nofun nofun _ s
  case ldaZpx z => exact readMem_next (i := .ldaZpx z) (resolves_zpx rfl rfl rfl) nofun nofun _ s
  case ldaAby a => exact readMem_next (i := .ldaAby a) (resolves_aby rfl rfl rfl) nofun nofun _ s
  case ldaAbx a => exact readMem_next (i := .ldaAbx a) (resolves_abx rfl rfl rfl) nofun nofun _ s
  case ldxImm v => exact readImm_next (i := .ldxImm v) rfl rfl rfl _ s
  case ldxZp z => exact readMem_next (i := .ldxZp z) (resolves_zp rfl rfl rfl) nofun nofun _ s
  case ldxAbs a => exact readMem_next (i := .ldxAbs a) (resolves_abs rfl rfl rfl) nofun nofun _ s
  case ldxZpy z => exact readMem_next (i := .ldxZpy z) (resolves_zpy rfl rfl rfl) nofun nofun _ s
  case ldxAby a => exact readMem_next (i := .ldxAby a) (resolves_aby rfl rfl rfl) nofun nofun _ s
  case ldyImm v => exact readImm_next (i := .ldyImm v) rfl rfl rfl _ s
  case ldyZp z => exact readMem_next (i := .ldyZp z) (resolves_zp rfl rfl rfl) nofun nofun _ s
  case ldyAbs a => exact readMem_next (i := .ldyAbs a) (resolves_abs rfl rfl rfl) nofun nofun _ s
  case ldyZpx z => exact readMem_next (i := .ldyZpx z) (resolves_zpx rfl rfl rfl) nofun nofun _ s
  case ldyAbx a => exact readMem_next (i := .ldyAbx a) (resolves_abx rfl rfl rfl) nofun nofun _ s
  case andIzx z => exact readMem_next (i := .andIzx z) (resolves_izx rfl rfl rfl) nofun nofun _ s
  case andZp z => exact readMem_next (i := .andZp z) (resolves_zp rfl rfl rfl) nofun nofun _ s
  case andImm v => exact readImm_next (i := .andImm v) rfl rfl rfl _ s
  case andAbs a => exact readMem_next (i := .andAbs a) (resolves_abs rfl rfl rfl) nofun nofun _ s
  case andIzy z => exact readMem_next (i := .andIzy z) (resolves_izy rfl rfl rfl) nofun nofun _ s
  case andZpx z => exact readMem_next (i := .andZpx z) (resolves_zpx rfl rfl rfl) nofun nofun _ s
  case andAby a => exact readMem_next (i := .andAby a) (resolves_aby rfl rfl rfl) nofun nofun _ s
  case andAbx a => exact readMem_next (i := .andAbx a) (resolves_abx rfl rfl rfl) nofun nofun _ s
  case oraIzx z => exact readMem_next (i := .oraIzx z) (resolves_izx rfl rfl rfl) nofun nofun _ s
  case oraZp z => exact readMem_next (i := .oraZp z) (resolves_zp rfl rfl rfl) nofun nofun _ s
  case oraImm v => exact readImm_next (i := .oraImm v) rfl rfl rfl _ s
  case oraAbs a => exact readMem_next (i := .oraAbs a) (resolves_abs rfl rfl rfl) nofun nofun _ s
  case oraIzy z => exact readMem_next (i := .oraIzy z) (resolves_izy rfl rfl rfl) nofun nofun _ s
  case oraZpx z => exact readMem_next (i := .oraZpx z) (resolves_zpx rfl rfl rfl) nofun nofun _ s
  case oraAby a => exact readMem_next (i := .oraAby a) (resolves_aby rfl rfl rfl) nofun nofun _ s
  case oraAbx a => exact readMem_next (i := .oraAbx a) (resolves_abx rfl rfl rfl) nofun nofun _ s
  case eorIzx z => exact readMem_next (i := .eorIzx z) (resolves_izx rfl rfl rfl) nofun nofun _ s
  case eorZp z => exact readMem_next (i := .eorZp z) (resolves_zp rfl rfl rfl) nofun nofun _ s
  case eorImm v => exact readImm_next (i := .eorImm v) rfl rfl rfl _ s
  case eorAbs a => exact readMem_next (i := .eorAbs a) (resolves_abs rfl rfl rfl) nofun nofun _ s
  case eorIzy z => exact readMem_next (i := .eorIzy z) (resolves_izy rfl rfl rfl) nofun nofun _ s
  case eorZpx z => exact readMem_next (i := .eorZpx z) (resolves_zpx rfl rfl rfl) nofun nofun _ s
  case eorAby a => exact readMem_next (i := .eorAby a) (resolves_aby rfl rfl rfl) nofun nofun _ s
  case eorAbx a => exact readMem_next (i := .eorAbx a) (resolves_abx rfl rfl rfl) nofun nofun _ s
  case bitZp z => exact readMem_next (i := .bitZp z) (resolves_zp rfl rfl rfl) nofun nofun _ s
  case bitAbs a => exact readMem_next (i := .bitAbs a) (resolves_abs rfl rfl rfl) nofun nofun _ s
  case adcIzx z => exact readMem_next (i := .adcIzx z) (resolves_izx rfl rfl rfl) nofun nofun _ s
  case adcZp z => exact readMem_next (i := .adcZp z) (resolves_zp rfl rfl rfl) nofun nofun _ s
  case adcImm v => exact readImm_next (i := .adcImm v) rfl rfl rfl _ s
  case adcAbs a => exact readMem_next (i := .adcAbs a) (resolves_abs rfl rfl rfl) nofun nofun _ s
  case adcIzy z => exact readMem_next (i := .adcIzy z) (resolves_izy rfl rfl rfl) nofun nofun _ s
  case adcZpx z => exact readMem_next (i := .adcZpx z) (resolves_zpx rfl rfl rfl) nofun nofun _ s
  case adcAby a => exact readMem_next (i := .adcAby a) (resolves_aby rfl rfl rfl) nofun nofun _ s
  case adcAbx a => exact readMem_next (i := .adcAbx a) (resolves_abx rfl rfl rfl) nofun nofun _ s
  case sbcIzx z => exact readMem_next (i := .sbcIzx z) (resolves_izx rfl rfl rfl) nofun nofun _ s
  case sbcZp z => exact readMem_next (i := .sbcZp z) (resolves_zp rfl rfl rfl) nofun nofun _ s
  case sbcImm v => exact readImm_next (i := .sbcImm v) rfl rfl rfl _ s
  case sbcAbs a => exact readMem_next (i := .sbcAbs a) (resolves_abs rfl rfl rfl) nofun nofun _ s
  case sbcIzy z => exact readMem_next (i := .sbcIzy z) (resolves_izy rfl rfl rfl) nofun nofun _ s
  case sbcZpx z => exact readMem_next (i := .sbcZpx z) (resolves_zpx rfl rfl rfl) nofun nofun _ s
  case sbcAby a => exact readMem_next (i := .sbcAby a) (resolves_aby rfl rfl rfl) nofun nofun _ s
  case sbcAbx a => exact readMem_next (i := .sbcAbx a) (resolves_abx rfl rfl rfl) nofun nofun _ s
  case cmpIzx z => exact readMem_next (i := .cmpIzx z) (resolves_izx rfl rfl rfl) nofun nofun _ s
  case cmpZp z => exact readMem_next (i := .cmpZp z) (resolves_zp rfl rfl rfl) nofun nofun _ s
  case cmpImm v => exact readImm_next (i := .cmpImm v) rfl rfl rfl _ s
  case cmpAbs a => exact readMem_next (i := .cmpAbs a) (resolves_abs rfl rfl rfl) nofun nofun _ s
  case cmpIzy z => exact readMem_next (i := .cmpIzy z) (resolves_izy rfl rfl rfl) nofun nofun _ s
  case cmpZpx z => exact readMem_next (i := .cmpZpx z) (resolves_zpx rfl rfl rfl) nofun nofun _ s
  case cmpAby a => exact readMem_next (i := .cmpAby a) (resolves_aby rfl rfl rfl) nofun nofun _ s
  case cmpAbx a => exact readMem_next (i := .cmpAbx a) (resolves_abx rfl rfl rfl) nofun nofun _ s
  case cpxImm v => exact readImm_next (i := .cpxImm v) rfl rfl rfl _ s
  case cpxZp z => exact readMem_next (i := .cpxZp z) (resolves_zp rfl rfl rfl) nofun nofun _ s
  case cpxAbs a => exact readMem_next (i := .cpxAbs a) (resolves_abs rfl rfl rfl) nofun nofun _ s
  case cpyImm v => exact readImm_next (i := .cpyImm v) rfl rfl rfl _ s
  case cpyZp z => exact readMem_next (i := .cpyZp z) (resolves_zp rfl rfl rfl) nofun nofun _ s
  case cpyAbs a => exact readMem_next (i := .cpyAbs a) (resolves_abs rfl rfl rfl) nofun nofun _ s

theorem resolved_kept (i : Instr) (s : State) :
    (resolved i s).ram = s.ram ∧ (resolved i s).cart = s.cart ∧ (resolved i s).vram = s.vram ∧
      (resolved i s).ppu.palette = s.ppu.palette ∧ (resolved i s).ppu.oam = s.ppu.oam := by
  simp only [resolved, baseAddress]
  split <;> simp [read16Wrap, read16Zp, read16At]

/-- Reading the operand changes no memory. -/
theorem operandM_kept (i : Instr) (s : State) :
    (operandM i s).2.ram = s.ram ∧ (operandM i s).2.cart = s.cart ∧ (operandM i s).2.vram = s.vram ∧
      (operandM i s).2.ppu.palette = s.ppu.palette ∧ (operandM i s).2.ppu.oam = s.ppu.oam := by
  obtain ⟨h1, h2, h3, h4, h5⟩ := resolved_kept i s
  unfold operandM
  split <;> simp [h1, h2, h3, h4, h5]

/-- Reading the operand changes no CPU register. -/
theorem operandM_cpu (i : Instr) (s : State) : (operandM i s).2.cpu = s.cpu := by
  unfold operandM
  split <;> simp [resolved_cpu]

/-! The write class. -/

/-- The register a write-class instruction stores. -/
def storeReg : Mnemonic → Option (Cpu → Byte)
  | .sta => some Cpu.a
  | .stx => some Cpu.x
  | .sty => some Cpu.y
  | _ => none

theorem writeMem_next {i : Instr} {resolve : State → State} (h : Resolves i resolve) {val : Cpu → Byte} (hv : ∀ (c : Cpu) ea me n, val
      { c with ea := ea, modeExtra := me, insnExtra := 0, cycles := n } = val c) (s : State) :
    ∃ me, writeMem i.cycles resolve (fun t => val t.cpu) s = .next (busWrite (address i s) (val s.cpu)
      { resolved i s with cpu := { s.cpu with ea := address i s, modeExtra := me, insnExtra := 0, cycles := spent i s } }) := by
  obtain ⟨me, hr⟩ := h s
  refine ⟨me, ?_⟩
  simp only [writeMem, hr, hv]

/-- Every write-class instruction makes one write of its register, all its cycles counted. -/
theorem exec_write {i : Instr} {val : Cpu → Byte} (h : storeReg i.mnemonic = some val) (s : State) :
    ∃ me, exec i s = .next (busWrite (address i s) (val s.cpu)
      { resolved i s with cpu := { s.cpu with ea := address i s, modeExtra := me, insnExtra := 0, cycles := spent i s } }) := by
  cases i <;> simp only [Instr.mnemonic, storeReg, reduceCtorEq, Option.some.injEq] at h <;> subst h
  case staIzx z => exact writeMem_next (i := .staIzx z) (val := Cpu.a) (resolves_izx rfl rfl rfl) (fun _ _ _ _ => rfl) s
  case staZp z => exact writeMem_next (i := .staZp z) (val := Cpu.a) (resolves_zp rfl rfl rfl) (fun _ _ _ _ => rfl) s
  case staAbs a => exact writeMem_next (i := .staAbs a) (val := Cpu.a) (resolves_abs rfl rfl rfl) (fun _ _ _ _ => rfl) s
  case staIzy z => exact writeMem_next (i := .staIzy z) (val := Cpu.a) (resolves_izy rfl rfl rfl) (fun _ _ _ _ => rfl) s
  case staZpx z => exact writeMem_next (i := .staZpx z) (val := Cpu.a) (resolves_zpx rfl rfl rfl) (fun _ _ _ _ => rfl) s
  case staAby a => exact writeMem_next (i := .staAby a) (val := Cpu.a) (resolves_aby rfl rfl rfl) (fun _ _ _ _ => rfl) s
  case staAbx a => exact writeMem_next (i := .staAbx a) (val := Cpu.a) (resolves_abx rfl rfl rfl) (fun _ _ _ _ => rfl) s
  case stxZp z => exact writeMem_next (i := .stxZp z) (val := Cpu.x) (resolves_zp rfl rfl rfl) (fun _ _ _ _ => rfl) s
  case stxAbs a => exact writeMem_next (i := .stxAbs a) (val := Cpu.x) (resolves_abs rfl rfl rfl) (fun _ _ _ _ => rfl) s
  case stxZpy z => exact writeMem_next (i := .stxZpy z) (val := Cpu.x) (resolves_zpy rfl rfl rfl) (fun _ _ _ _ => rfl) s
  case styZp z => exact writeMem_next (i := .styZp z) (val := Cpu.y) (resolves_zp rfl rfl rfl) (fun _ _ _ _ => rfl) s
  case styAbs a => exact writeMem_next (i := .styAbs a) (val := Cpu.y) (resolves_abs rfl rfl rfl) (fun _ _ _ _ => rfl) s
  case styZpx z => exact writeMem_next (i := .styZpx z) (val := Cpu.y) (resolves_zpx rfl rfl rfl) (fun _ _ _ _ => rfl) s

/-! The read-modify-write class and the accumulator forms. -/

/-- The result and the flags of a read-modify-write instruction, of the old P and the operand. -/
def modifyOp : Mnemonic → Option ((Byte → Byte → Byte) × (Byte → Byte → Byte → Byte))
  | .inc => some (incResult, incFlags)
  | .dec => some (decResult, incFlags)
  | .asl => some (aslOf, aslFlags)
  | .lsr => some (lsrOf, lsrFlags)
  | .rol => some (rolOf, rolFlags)
  | .ror => some (rorOf, rorFlags)
  | _ => none

theorem modifyMem_next {i : Instr} {resolve : State → State} (h : Resolves i resolve) (h1 : i.mode ≠ .immediate)
    (h2 : i.mode ≠ .accumulator) (f : Byte → Byte → Byte) (g : Byte → Byte → Byte → Byte) (s : State) :
    ∃ me, modifyMem i.cycles resolve f g s = .next ((busWrite (address i s) (f s.cpu.p (operandM i s).1)
      { (operandM i s).2 with cpu := { s.cpu with ea := address i s, modeExtra := me, insnExtra := 0, cycles := spent i s } }).setP
        (g s.cpu.p (operandM i s).1 (f s.cpu.p (operandM i s).1))) := by
  obtain ⟨me, hr⟩ := h s
  refine ⟨me, ?_⟩
  have ho : operandM i s = busRead (address i s) (resolved i s) := by
    unfold operandM
    split
    · contradiction
    · contradiction
    · rfl
  simp only [modifyMem, hr, ho, busRead_withCpu]

/-- Every read-modify-write instruction on memory reads once, writes the result once, and sets P from the old P. -/
theorem exec_modify {i : Instr} {f : Byte → Byte → Byte} {g : Byte → Byte → Byte → Byte} (h : modifyOp i.mnemonic = some (f, g))
    (hm : i.mode ≠ .accumulator) (s : State) :
    ∃ me, exec i s = .next ((busWrite (address i s) (f s.cpu.p (operandM i s).1)
      { (operandM i s).2 with cpu := { s.cpu with ea := address i s, modeExtra := me, insnExtra := 0, cycles := spent i s } }).setP
        (g s.cpu.p (operandM i s).1 (f s.cpu.p (operandM i s).1))) := by
  cases i <;> simp only [Instr.mnemonic, modifyOp, reduceCtorEq, Option.some.injEq, Prod.mk.injEq] at h <;> obtain ⟨rfl, rfl⟩ := h
  case incZp z => exact modifyMem_next (i := .incZp z) (resolves_zp rfl rfl rfl) nofun nofun _ _ s
  case incAbs a => exact modifyMem_next (i := .incAbs a) (resolves_abs rfl rfl rfl) nofun nofun _ _ s
  case incZpx z => exact modifyMem_next (i := .incZpx z) (resolves_zpx rfl rfl rfl) nofun nofun _ _ s
  case incAbx a => exact modifyMem_next (i := .incAbx a) (resolves_abx rfl rfl rfl) nofun nofun _ _ s
  case decZp z => exact modifyMem_next (i := .decZp z) (resolves_zp rfl rfl rfl) nofun nofun _ _ s
  case decAbs a => exact modifyMem_next (i := .decAbs a) (resolves_abs rfl rfl rfl) nofun nofun _ _ s
  case decZpx z => exact modifyMem_next (i := .decZpx z) (resolves_zpx rfl rfl rfl) nofun nofun _ _ s
  case decAbx a => exact modifyMem_next (i := .decAbx a) (resolves_abx rfl rfl rfl) nofun nofun _ _ s
  case aslZp z => exact modifyMem_next (i := .aslZp z) (resolves_zp rfl rfl rfl) nofun nofun _ _ s
  case aslAcc => exact absurd rfl hm
  case aslAbs a => exact modifyMem_next (i := .aslAbs a) (resolves_abs rfl rfl rfl) nofun nofun _ _ s
  case aslZpx z => exact modifyMem_next (i := .aslZpx z) (resolves_zpx rfl rfl rfl) nofun nofun _ _ s
  case aslAbx a => exact modifyMem_next (i := .aslAbx a) (resolves_abx rfl rfl rfl) nofun nofun _ _ s
  case lsrZp z => exact modifyMem_next (i := .lsrZp z) (resolves_zp rfl rfl rfl) nofun nofun _ _ s
  case lsrAcc => exact absurd rfl hm
  case lsrAbs a => exact modifyMem_next (i := .lsrAbs a) (resolves_abs rfl rfl rfl) nofun nofun _ _ s
  case lsrZpx z => exact modifyMem_next (i := .lsrZpx z) (resolves_zpx rfl rfl rfl) nofun nofun _ _ s
  case lsrAbx a => exact modifyMem_next (i := .lsrAbx a) (resolves_abx rfl rfl rfl) nofun nofun _ _ s
  case rolZp z => exact modifyMem_next (i := .rolZp z) (resolves_zp rfl rfl rfl) nofun nofun _ _ s
  case rolAcc => exact absurd rfl hm
  case rolAbs a => exact modifyMem_next (i := .rolAbs a) (resolves_abs rfl rfl rfl) nofun nofun _ _ s
  case rolZpx z => exact modifyMem_next (i := .rolZpx z) (resolves_zpx rfl rfl rfl) nofun nofun _ _ s
  case rolAbx a => exact modifyMem_next (i := .rolAbx a) (resolves_abx rfl rfl rfl) nofun nofun _ _ s
  case rorZp z => exact modifyMem_next (i := .rorZp z) (resolves_zp rfl rfl rfl) nofun nofun _ _ s
  case rorAcc => exact absurd rfl hm
  case rorAbs a => exact modifyMem_next (i := .rorAbs a) (resolves_abs rfl rfl rfl) nofun nofun _ _ s
  case rorZpx z => exact modifyMem_next (i := .rorZpx z) (resolves_zpx rfl rfl rfl) nofun nofun _ _ s
  case rorAbx a => exact modifyMem_next (i := .rorAbx a) (resolves_abx rfl rfl rfl) nofun nofun _ _ s

/-- Every accumulator form puts the result in A and sets P from the old P. -/
theorem exec_modifyAcc {i : Instr} {f : Byte → Byte → Byte} {g : Byte → Byte → Byte → Byte} (h : modifyOp i.mnemonic = some (f, g))
    (hm : i.mode = .accumulator) (s : State) :
    exec i s = .next { s with cpu := { s.cpu with
      a := f s.cpu.p s.cpu.a, p := g s.cpu.p s.cpu.a (f s.cpu.p s.cpu.a), modeExtra := 0, insnExtra := 0, cycles := s.cpu.cycles + 2 } } := by
  cases i <;> simp only [Instr.mnemonic, modifyOp, reduceCtorEq, Option.some.injEq, Prod.mk.injEq] at h <;> obtain ⟨rfl, rfl⟩ := h
  case incZp z => exact absurd hm nofun
  case incAbs a => exact absurd hm nofun
  case incZpx z => exact absurd hm nofun
  case incAbx a => exact absurd hm nofun
  case decZp z => exact absurd hm nofun
  case decAbs a => exact absurd hm nofun
  case decZpx z => exact absurd hm nofun
  case decAbx a => exact absurd hm nofun
  case aslZp z => exact absurd hm nofun
  case aslAcc => rfl
  case aslAbs a => exact absurd hm nofun
  case aslZpx z => exact absurd hm nofun
  case aslAbx a => exact absurd hm nofun
  case lsrZp z => exact absurd hm nofun
  case lsrAcc => rfl
  case lsrAbs a => exact absurd hm nofun
  case lsrZpx z => exact absurd hm nofun
  case lsrAbx a => exact absurd hm nofun
  case rolZp z => exact absurd hm nofun
  case rolAcc => rfl
  case rolAbs a => exact absurd hm nofun
  case rolZpx z => exact absurd hm nofun
  case rolAbx a => exact absurd hm nofun
  case rorZp z => exact absurd hm nofun
  case rorAcc => rfl
  case rorAbs a => exact absurd hm nofun
  case rorZpx z => exact absurd hm nofun
  case rorAbx a => exact absurd hm nofun

/-! The implied instructions and the branches. -/

/-- The operation of an implied instruction that takes no operand. -/
def impliedOp : Mnemonic → Option (State → State)
  | .tax => some taxOp
  | .tay => some tayOp
  | .txa => some txaOp
  | .tya => some tyaOp
  | .tsx => some tsxOp
  | .txs => some txsOp
  | .pha => some phaOp
  | .php => some phpOp
  | .pla => some plaOp
  | .plp => some plpOp
  | .inx => some inxOp
  | .iny => some inyOp
  | .dex => some dexOp
  | .dey => some deyOp
  | .rts => some rtsOp
  | .brk => some brkOp
  | .rti => some rtiOp
  | .nop => some nopOp
  | .clc => some clcOp
  | .sec => some secOp
  | .cli => some cliOp
  | .sei => some seiOp
  | .cld => some cldOp
  | .sed => some sedOp
  | .clv => some clvOp
  | _ => none

/-- Every implied instruction is its operation, its cycles counted. -/
theorem exec_implied {i : Instr} {op : State → State} (h : impliedOp i.mnemonic = some op) (s : State) :
    exec i s = .next (op (s.start i.cycles)) := by
  cases i <;> simp only [Instr.mnemonic, impliedOp, reduceCtorEq, Option.some.injEq] at h <;> subst h <;> rfl

/-- The condition of a branch, on P. -/
def branchCond : Mnemonic → Option (Byte → Bool)
  | .bcc => some (fun p => !flagC p)
  | .bcs => some flagC
  | .beq => some flagZ
  | .bne => some (fun p => !flagZ p)
  | .bmi => some flagN
  | .bpl => some (fun p => !flagN p)
  | .bvc => some (fun p => !flagV p)
  | .bvs => some flagV
  | _ => none

/-- The common branch operation in closed form. -/
theorem branchIf_eq (base : Nat) (cond : Bool) (d : Byte) (s : State) :
    branchIf base cond d s = .next { s with cpu := { s.cpu with
      modeExtra := 0
      insnExtra := if cond then 1 + (if pageCross s.cpu.pc (s.cpu.pc + sext16 d) then 1 else 0) else 0
      pc := if cond then s.cpu.pc + sext16 d else s.cpu.pc
      cycles := s.cpu.cycles + base + (if cond then 1 + (if pageCross s.cpu.pc (s.cpu.pc + sext16 d) then 1 else 0) else 0) } } := by
  cases cond <;> rfl

/-- Every branch is the common operation under its condition. -/
theorem exec_branch {i : Instr} {cond : Byte → Bool} (h : branchCond i.mnemonic = some cond) (s : State) :
    exec i s = branchIf 2 (cond s.cpu.p) (op8 i) s := by
  cases i <;> simp only [Instr.mnemonic, branchCond, reduceCtorEq, Option.some.injEq] at h <;> subst h
  case bcc d => rw [op8_of (i := .bcc d) rfl]; rfl
  case bcs d => rw [op8_of (i := .bcs d) rfl]; rfl
  case beq d => rw [op8_of (i := .beq d) rfl]; rfl
  case bne d => rw [op8_of (i := .bne d) rfl]; rfl
  case bmi d => rw [op8_of (i := .bmi d) rfl]; rfl
  case bpl d => rw [op8_of (i := .bpl d) rfl]; rfl
  case bvc d => rw [op8_of (i := .bvc d) rfl]; rfl
  case bvs d => rw [op8_of (i := .bvs d) rfl]; rfl

/-- Both jumps go to their address. -/
theorem exec_jmp {i : Instr} (h : i.mnemonic = .jmp) (s : State) :
    ∃ ea me, exec i s = .next { resolved i s with cpu := { s.cpu with
      ea := ea, modeExtra := me, insnExtra := 0, pc := address i s, cycles := spent i s } } := by
  cases i <;> simp only [Instr.mnemonic, reduceCtorEq] at h
  case jmpAbs a =>
    obtain ⟨me, hr⟩ := resolves_abs (i := .jmpAbs a) rfl rfl rfl s
    exact ⟨_, me, congrArg (fun t : State => Host.Outcome.next (t.setPc t.cpu.ea)) hr⟩
  case jmpInd a =>
    obtain ⟨me, hr⟩ := resolves_ind (i := .jmpInd a) rfl rfl rfl s
    exact ⟨_, me, congrArg (fun t : State => Host.Outcome.next (t.setPc t.cpu.ea)) hr⟩

end Sys2Proof.Claims
end

