-- ==== Sys2Proof/Laws/Devices.lean ====
section
/-! SUPPORT. What the devices' cycles leave alone: memory, the cartridge, the fault record and every CPU register; and the DMC's
reader in closed form. -/

namespace Sys2Proof.Machine

/-- What every device operation leaves alone. Of the CPU it may change the NMI latch (never clearing it), the stall cycles and
the IRQ latch. -/
structure DeviceFrame (s t : State) : Prop where
  cart : t.cart = s.cart
  ram : t.ram = s.ram
  vram : t.vram = s.vram
  fault : t.fault = s.fault
  cpu : ∃ nmi stall latch, t.cpu = { s.cpu with nmiPending := nmi, stallCycles := stall, irqLatch := latch }
  nmi : s.cpu.nmiPending = true → t.cpu.nmiPending = true
  oam : t.ppu.oam = s.ppu.oam
  palette : t.ppu.palette = s.ppu.palette

theorem DeviceFrame.refl (s : State) : DeviceFrame s s := ⟨rfl, rfl, rfl, rfl, ⟨_, _, _, rfl⟩, id, rfl, rfl⟩

theorem DeviceFrame.trans {s t u : State} (h : DeviceFrame s t) (k : DeviceFrame t u) : DeviceFrame s u := by
  obtain ⟨n1, l1, i1, h1⟩ := h.cpu
  obtain ⟨n2, l2, i2, h2⟩ := k.cpu
  exact ⟨k.cart.trans h.cart, k.ram.trans h.ram, k.vram.trans h.vram, k.fault.trans h.fault, ⟨n2, l2, i2, by rw [h2, h1]⟩,
    fun x => k.nmi (h.nmi x), k.oam.trans h.oam, k.palette.trans h.palette⟩

/-- A change of the APU only. -/
theorem DeviceFrame.apu (s : State) (a : Apu) : DeviceFrame s { s with apu := a } :=
  ⟨rfl, rfl, rfl, rfl, ⟨_, _, _, rfl⟩, id, rfl, rfl⟩

theorem busRead_frame (a : Word) (s : State) : DeviceFrame s (busRead a s).2 :=
  ⟨by simp, by simp, by simp, by simp, ⟨_, _, _, busRead_cpu a s⟩, by simp, by simp, by simp⟩

theorem dmcSampleEnd_frame (s : State) : DeviceFrame s (dmcSampleEnd s) := by
  unfold dmcSampleEnd
  split
  · exact DeviceFrame.apu s _
  · split
    · exact ⟨rfl, rfl, rfl, rfl, ⟨_, _, _, rfl⟩, id, rfl, rfl⟩
    · exact DeviceFrame.refl s

theorem dmcFill_frame (s : State) : DeviceFrame s (dmcFill s) := by
  have key (t : State) : DeviceFrame s t → DeviceFrame s (if t.apu.dmc.bytesRemaining = 0 then dmcSampleEnd t else t) := by
    intro h
    split
    · exact h.trans (dmcSampleEnd_frame t)
    · exact h
  unfold dmcFill
  split
  · refine key _ ?_
    refine (busRead_frame s.apu.dmc.currentAddr s).trans ?_
    exact ⟨rfl, rfl, rfl, rfl, ⟨_, _, _, rfl⟩, id, rfl, rfl⟩
  · exact DeviceFrame.refl s

/-- The DMC's reader in closed form, where its address lies in the cartridge's program space. -/
theorem dmcFill_eq {s : State} (ha : 0x8000 ≤ s.apu.dmc.currentAddr.toNat) :
    dmcFill s =
      if s.apu.dmc.bufferEmpty = true ∧ s.apu.dmc.bytesRemaining ≠ 0 then
        let v := s.cart.prgByte s.apu.dmc.currentAddr.toNat
        let d : Dmc := { s.apu.dmc with
          sampleBuffer := v, bufferEmpty := false, currentAddr := dmcNextAddr s.apu.dmc.currentAddr
          bytesRemaining := s.apu.dmc.bytesRemaining - 1 }
        let t : State := { s with
          apu := { s.apu with dmc := d }, cpu := { s.cpu with stallCycles := s.cpu.stallCycles + 4 }, openBus := v }
        if d.bytesRemaining = 0 then dmcSampleEnd t else t
      else s := by
  unfold dmcFill
  simp only [busRead_high ha, State.setOpenBus, State.addStall, State.setDmc, Config.dmcFetchStall]

/-- What the DMC's reader changes: the DMC, its interrupt flag, the stall cycles, the IRQ latch and `openBus`. -/
theorem dmcFill_does {s : State} (ha : 0x8000 ≤ s.apu.dmc.currentAddr.toNat) : ∃ d irq stall latch ob, dmcFill s =
    { s with
      apu := { s.apu with dmc := d, dmcIrq := irq }, cpu := { s.cpu with stallCycles := stall, irqLatch := latch }, openBus := ob } := by
  rw [dmcFill_eq ha]
  split
  · simp only
    split
    · unfold dmcSampleEnd
      split
      · exact ⟨_, _, _, _, _, rfl⟩
      · split <;> exact ⟨_, _, _, _, _, rfl⟩
    · exact ⟨_, _, _, _, _, rfl⟩
  · exact ⟨_, _, _, _, _, rfl⟩

theorem dmcTimer_does {s : State} (ha : 0x8000 ≤ s.apu.dmc.currentAddr.toNat) : ∃ d irq stall latch ob, dmcTimer s =
    { s with
      apu := { s.apu with dmc := d, dmcIrq := irq }, cpu := { s.cpu with stallCycles := stall, irqLatch := latch }, openBus := ob } := by
  unfold dmcTimer
  simp only
  split
  · unfold dmcOutputClock
    simp only
    split
    · split
      · exact ⟨_, _, _, _, _, rfl⟩
      · exact dmcFill_does (s := State.setDmc _ (State.setDmc _ s)) ha
    · exact ⟨_, _, _, _, _, rfl⟩
  · exact ⟨_, _, _, _, _, rfl⟩

theorem dmcOutputClock_frame (s : State) : DeviceFrame s (dmcOutputClock s) := by
  unfold dmcOutputClock
  simp only
  split
  · split
    · exact DeviceFrame.apu s _
    · exact (DeviceFrame.apu s _).trans (dmcFill_frame _)
  · exact DeviceFrame.apu s _

theorem dmcTimer_frame (s : State) : DeviceFrame s (dmcTimer s) := by
  unfold dmcTimer
  simp only
  split
  · exact (DeviceFrame.apu s _).trans (dmcOutputClock_frame _)
  · exact DeviceFrame.apu s _

theorem frameSequencer_frame (s : State) : DeviceFrame s (frameSequencer s) := by
  unfold frameSequencer
  simp only
  split
  · exact ⟨rfl, rfl, rfl, rfl, ⟨_, _, _, rfl⟩, id, rfl, rfl⟩
  · exact DeviceFrame.apu s _

theorem accumulateSample_frame (s : State) : DeviceFrame s (accumulateSample s) := by
  unfold accumulateSample
  split
  · exact DeviceFrame.refl s
  · exact DeviceFrame.apu s _

theorem apuTick_frame (s : State) : DeviceFrame s (apuTick s) := by
  unfold apuTick
  simp only
  refine DeviceFrame.trans ?_ ((frameSequencer_frame _).trans (accumulateSample_frame _))
  refine DeviceFrame.trans ?_ (DeviceFrame.apu _ _)
  split
  · exact (DeviceFrame.apu s _).trans (dmcTimer_frame _)
  · exact DeviceFrame.apu s _

/-! The PPU's dot: OAM and the palette are read only. -/

theorem Ppu.spriteScan_frame (rd : Nat → Byte) (h : Nat) (l : List Nat) (p : Ppu) :
    (p.spriteScan rd h l).oam = p.oam ∧ (p.spriteScan rd h l).palette = p.palette := by
  induction l generalizing p with
  | nil => exact ⟨rfl, rfl⟩
  | cons i l ih =>
    unfold Ppu.spriteScan
    simp only
    split
    · split
      · exact ⟨rfl, rfl⟩
      · exact ih _
    · exact ih _

theorem Ppu.spriteDot257_frame (rd : Nat → Byte) (p : Ppu) :
    (p.spriteDot257 rd).oam = p.oam ∧ (p.spriteDot257 rd).palette = p.palette := by
  unfold Ppu.spriteDot257
  simp only
  split
  · exact Ppu.spriteScan_frame _ _ _ _
  · exact ⟨rfl, rfl⟩

/-- What the background pipeline changes: its latches, its shift registers and the VRAM address. -/
theorem Ppu.backgroundDot_does (rd : Nat → Byte) (p : Ppu) : ∃ va nt at2 lo hi sl sh al ah, p.backgroundDot rd =
    { p with
      vaddr := va, ntByte := nt, atBits := at2, ptLo := lo, ptHi := hi, bgShiftLo := sl, bgShiftHi := sh, atShiftLo := al
      atShiftHi := ah } := by
  unfold Ppu.backgroundDot
  simp only
  split
  · unfold Ppu.bgFetch
    split <;> exact ⟨_, _, _, _, _, _, _, _, _, rfl⟩
  · exact ⟨_, _, _, _, _, _, _, _, _, rfl⟩

theorem Ppu.renderDot_frame (rd : Nat → Byte) (p : Ppu) :
    (p.renderDot rd).oam = p.oam ∧ (p.renderDot rd).palette = p.palette := by
  have key (q : Ppu) (x y : Nat) : (q.composePixel x y).oam = q.oam ∧ (q.composePixel x y).palette = q.palette := ⟨rfl, rfl⟩
  have hb : (p.backgroundDot rd).oam = p.oam ∧ (p.backgroundDot rd).palette = p.palette := by
    obtain ⟨_, _, _, _, _, _, _, _, _, h⟩ := p.backgroundDot_does rd
    rw [h]
    exact ⟨rfl, rfl⟩
  have h1 (q : Ppu) (hq : q.oam = p.oam ∧ q.palette = p.palette) :
      (q.spriteDot257 rd).oam = p.oam ∧ (q.spriteDot257 rd).palette = p.palette :=
    ⟨(q.spriteDot257_frame rd).1.trans hq.1, (q.spriteDot257_frame rd).2.trans hq.2⟩
  have h2 (q : Ppu) (x y : Nat) (hq : q.oam = p.oam ∧ q.palette = p.palette) :
      (q.composePixel x y).oam = p.oam ∧ (q.composePixel x y).palette = p.palette := hq
  unfold Ppu.renderDot
  simp only
  split_ifs
  all_goals first
    | exact h2 _ _ _ (h1 _ hb)
    | exact h2 _ _ _ (h1 _ ⟨rfl, rfl⟩)
    | exact h2 _ _ _ hb
    | exact h1 _ hb
    | exact h1 _ ⟨rfl, rfl⟩
    | exact hb
    | exact ⟨rfl, rfl⟩

/-- What the rendering work of a dot keeps: position, registers, vblank; and it never clears a sprite flag. -/
structure RenderKeeps (p q : Ppu) : Prop where
  dot : q.dot = p.dot
  scanline : q.scanline = p.scanline
  oddFrame : q.oddFrame = p.oddFrame
  mask : q.mask = p.mask
  ctrl : q.ctrl = p.ctrl
  vblank : q.vblank = p.vblank
  hit : p.sprite0Hit = true → q.sprite0Hit = true
  overflow : p.spriteOverflow = true → q.spriteOverflow = true
  picture : 239 < p.scanline → q.framebuffer = p.framebuffer

theorem RenderKeeps.refl (p : Ppu) : RenderKeeps p p := ⟨rfl, rfl, rfl, rfl, rfl, rfl, id, id, fun _ => rfl⟩

theorem RenderKeeps.trans {p q r : Ppu} (h : RenderKeeps p q) (k : RenderKeeps q r) : RenderKeeps p r :=
  ⟨k.dot.trans h.dot, k.scanline.trans h.scanline, k.oddFrame.trans h.oddFrame, k.mask.trans h.mask, k.ctrl.trans h.ctrl,
    k.vblank.trans h.vblank, fun x => k.hit (h.hit x), fun x => k.overflow (h.overflow x),
    fun x => (k.picture (by rw [h.scanline]; exact x)).trans (h.picture x)⟩

theorem Ppu.spriteScan_keeps (rd : Nat → Byte) (h : Nat) (l : List Nat) (p : Ppu) : RenderKeeps p (p.spriteScan rd h l) := by
  induction l generalizing p with
  | nil => exact RenderKeeps.refl p
  | cons i l ih =>
    unfold Ppu.spriteScan
    simp only
    split
    · split
      · exact ⟨rfl, rfl, rfl, rfl, rfl, rfl, id, fun _ => rfl, fun _ => rfl⟩
      · refine RenderKeeps.trans ?_ (ih _)
        exact ⟨rfl, rfl, rfl, rfl, rfl, rfl, id, id, fun _ => rfl⟩
    · exact ih p

theorem Ppu.spriteDot257_keeps (rd : Nat → Byte) (p : Ppu) : RenderKeeps p (p.spriteDot257 rd) := by
  have h : RenderKeeps p { p with sprCount := 0, sprZeroInLine := false } := ⟨rfl, rfl, rfl, rfl, rfl, rfl, id, id, fun _ => rfl⟩
  unfold Ppu.spriteDot257
  simp only
  split
  · exact h.trans (Ppu.spriteScan_keeps rd _ _ _)
  · exact h

theorem Ppu.backgroundDot_keeps (rd : Nat → Byte) (p : Ppu) : RenderKeeps p (p.backgroundDot rd) := by
  obtain ⟨_, _, _, _, _, _, _, _, _, h⟩ := p.backgroundDot_does rd
  rw [h]
  exact ⟨rfl, rfl, rfl, rfl, rfl, rfl, id, id, fun _ => rfl⟩

theorem Ppu.composePixel_keeps {x y : Nat} {p : Ppu} (h : p.scanline ≤ 239) : RenderKeeps p (p.composePixel x y) :=
  ⟨rfl, rfl, rfl, rfl, rfl, rfl, fun k => by simp only [Ppu.composePixel, Ppu.output, k, Bool.true_or], id, fun k => by omega⟩

theorem Ppu.renderDot_keeps (rd : Nat → Byte) (p : Ppu) : RenderKeeps p (p.renderDot rd) := by
  have hb := p.backgroundDot_keeps rd
  have hs := p.spriteDot257_keeps rd
  have hbs := hb.trans (Ppu.spriteDot257_keeps rd _)
  unfold Ppu.renderDot
  simp only
  split_ifs with h1 h2 h3 h4 h5 h6 <;> first
    | exact hbs.trans (Ppu.composePixel_keeps (by rw [hbs.scanline]; omega))
    | exact hb.trans (Ppu.composePixel_keeps (by rw [hb.scanline]; omega))
    | exact hs.trans (Ppu.composePixel_keeps (by rw [hs.scanline]; omega))
    | exact Ppu.composePixel_keeps (by omega)
    | exact hbs
    | exact hb
    | exact hs
    | exact RenderKeeps.refl p

theorem Ppu.flagDot_frame (p : Ppu) : p.flagDot.oam = p.oam ∧ p.flagDot.palette = p.palette := by
  unfold Ppu.flagDot
  split_ifs <;> exact ⟨rfl, rfl⟩

theorem Ppu.advance_frame (p : Ppu) : p.advance.oam = p.oam ∧ p.advance.palette = p.palette := by
  unfold Ppu.advance
  split_ifs <;> exact ⟨rfl, rfl⟩

/-- A PPU cycle in one record: the PPU's own dot, and at line 241, dot 1 the NMI latch and the frame. -/
theorem ppuTick_eq (s : State) :
    ppuTick s =
      { s with
        ppu := ((s.ppu.renderDot (ppuRead s)).flagDot).advance
        cpu := { s.cpu with nmiPending := s.cpu.nmiPending || (s.ppu.entersVblank && ((s.ppu.renderDot (ppuRead s)).flagDot).ctrl.getLsbD 7) }
        host := { s.host with
          frames := if s.ppu.entersVblank then ((s.ppu.renderDot (ppuRead s)).flagDot).framebuffer :: s.host.frames else s.host.frames } } := by
  unfold ppuTick
  simp only
  by_cases h : s.ppu.entersVblank = true
  · simp only [h, if_true, vblankSignals, Bool.true_and]
  · simp only [h, Bool.not_eq_true] at h ⊢
    simp

theorem ppuTick_frame (s : State) : DeviceFrame s (ppuTick s) := by
  rw [ppuTick_eq]
  refine ⟨rfl, rfl, rfl, rfl, ⟨_, _, _, rfl⟩, fun h => by simp [h], ?_, ?_⟩
  · exact (Ppu.advance_frame _).1.trans ((Ppu.flagDot_frame _).1.trans (Ppu.renderDot_frame _ _).1)
  · exact (Ppu.advance_frame _).2.trans ((Ppu.flagDot_frame _).2.trans (Ppu.renderDot_frame _ _).2)

theorem deviceCycle_frame (s : State) : DeviceFrame s (deviceCycle s) :=
  (ppuTick_frame s).trans ((ppuTick_frame _).trans ((ppuTick_frame _).trans (apuTick_frame _)))

theorem runDevices_frame (n : Nat) (s : State) : DeviceFrame s (runDevices n s) := by
  induction n generalizing s with
  | zero => exact DeviceFrame.refl s
  | succ n ih => exact (deviceCycle_frame s).trans (ih _)

end Sys2Proof.Machine
end

