-- ==== Sys2Proof/Laws/Invariant.lean ====
section
/-! SUPPORT. The machine's invariant, operation by operation: registers, bus reads and writes, the stack, and the devices. -/

namespace Sys2Proof.Machine

/-- The invariant reads of the CPU only P. -/
theorem State.Inv.withCpu {s : State} (h : s.Inv) {c : Cpu} (hc : c.Inv) : State.Inv { s with cpu := c } :=
  ⟨hc, h.ppu, h.apu, h.cart, h.ram, h.vram⟩

theorem putBit2_inv {p : Byte} (h : p.getLsbD 5 = true ∧ p.getLsbD 4 = false) (b : Bool) :
    (putBit p 2 b).getLsbD 5 = true ∧ (putBit p 2 b).getLsbD 4 = false := by
  revert h
  revert p
  cases b <;> decide +kernel

theorem pulledP_inv : ∀ v : Byte, (pulledP v).getLsbD 5 = true ∧ (pulledP v).getLsbD 4 = false := by decide +kernel

theorem busRead_inv {s : State} (h : s.Inv) (a : Word) : (busRead a s).2.Inv := by
  obtain ⟨_, _, _, _, _, _, _, e⟩ := busRead_does a s
  rw [e]
  exact ⟨h.cpu, h.ppu, h.apu, h.cart, h.ram, h.vram⟩

theorem fetch8_inv {s : State} (h : s.Inv) : (fetch8 s).2.Inv :=
  (busRead_inv h s.cpu.pc).withCpu (by
    show ((busRead s.cpu.pc s).2.setPc (s.cpu.pc + 1)).cpu.Inv
    simp only [State.setPc, busRead_cpu]
    exact h.cpu)

/-! Memories that a bus write reaches. -/

theorem mapNametable_lt (m : Mirroring) (a : Nat) : mapNametable m a < vramSize m := by
  have h : (a - 0x2000) % 0x1000 / 0x400 < 4 := by omega
  have h' : (a - 0x2000) % 0x1000 % 0x400 < 0x400 := by omega
  cases m <;> simp only [mapNametable, vramSize, reduceCtorEq, if_false, if_true] <;> omega

theorem paletteIndex_lt (a : Nat) : paletteIndex a < 32 := by
  simp only [paletteIndex]
  split <;> omega

theorem low6_lt : ∀ v : Byte, (v &&& 0x3F).toNat < 64 := by decide +kernel

theorem grey_lt (v : Byte) (h : v.toNat < 64) : (v &&& 0x30).toNat < 64 := by
  have : (v &&& 0x30).toNat ≤ v.toNat := by
    rw [BitVec.toNat_and]
    exact Nat.and_le_left
  omega

theorem ppuWrite_inv {s : State} (h : s.Inv) (a : Nat) (v : Byte) : (ppuWrite a v s).Inv := by
  unfold ppuWrite
  simp only
  split
  · rename_i ha
    unfold writeGraphics
    split
    · obtain ⟨h1, h2, h3, h4, h5, h6⟩ := h.cart
      exact ⟨h.cpu, h.ppu, h.apu, ⟨h1, h2, h3, h4, Mem.write_wf h5 (by omega) v, h6⟩, h.ram, h.vram⟩
    · exact ⟨h.cpu, h.ppu, h.apu, h.cart, h.ram, h.vram⟩
  · split
    · exact ⟨h.cpu, h.ppu, h.apu, h.cart, h.ram, Mem.write_wf h.vram (mapNametable_lt _ _) v⟩
    · obtain ⟨h1, h2, h3, h4, h5, h6⟩ := h.ppu
      exact ⟨h.cpu, ⟨h1, h2, h3, h4, Mem.write_wf6 h5 (paletteIndex_lt _) (low6_lt v), h6⟩, h.apu, h.cart, h.ram, h.vram⟩

theorem ppuPortWrite_inv {s : State} (h : s.Inv) (port : Nat) (v : Byte) : (ppuPortWrite port v s).Inv := by
  unfold ppuPortWrite
  split
  · exact ⟨h.cpu, h.ppu, h.apu, h.cart, h.ram, h.vram⟩
  · exact ⟨h.cpu, h.ppu, h.apu, h.cart, h.ram, h.vram⟩
  · exact ⟨h.cpu, h.ppu, h.apu, h.cart, h.ram, h.vram⟩
  · obtain ⟨h1, h2, h3, h4, h5⟩ := h.ppu
    exact ⟨h.cpu, ⟨h1, h2, h3, Mem.write_wf h4 (by omega) v, h5⟩, h.apu, h.cart, h.ram, h.vram⟩
  · unfold Ppu.scrollWrite
    split <;> exact ⟨h.cpu, h.ppu, h.apu, h.cart, h.ram, h.vram⟩
  · unfold Ppu.addrWrite
    split <;> exact ⟨h.cpu, h.ppu, h.apu, h.cart, h.ram, h.vram⟩
  · have k := ppuWrite_inv h (s.ppu.vaddr.toNat % 0x4000) v
    exact ⟨k.cpu, k.ppu, k.apu, k.cart, k.ram, k.vram⟩
  · exact h

/-! The APU. -/

theorem restart_high (d : Dmc) : 0x8000 ≤ d.restart.currentAddr.toNat := by
  have hb : ∀ b : Byte, 0x8000 ≤ (0xC000 + zext16 b * 64 : Word).toNat := by decide +kernel
  exact hb d.sampleAddrReg

theorem dmcNextAddr_high {a : Word} (h : 0x8000 ≤ a.toNat) : 0x8000 ≤ (dmcNextAddr a).toNat := by
  unfold dmcNextAddr
  split
  · decide
  · rename_i hne
    have : a.toNat ≠ 0xFFFF := fun e => hne (BitVec.eq_of_toNat_eq e)
    rw [BitVec.toNat_add]
    have h1 : (1 : Word).toNat = 1 := rfl
    rw [h1]
    omega

theorem State.Inv.setApu {s : State} (h : s.Inv) {a : Apu} (ha : a.Inv) : State.Inv { s with apu := a } :=
  ⟨h.cpu, h.ppu, ha, h.cart, h.ram, h.vram⟩

theorem dmcSampleEnd_inv {s : State} (h : s.Inv) : (dmcSampleEnd s).Inv := by
  obtain ⟨h1, h2, h3, h4, _⟩ := h.apu
  unfold dmcSampleEnd
  split
  · exact h.setApu ⟨h1, h2, h3, h4, restart_high _⟩
  · split
    · exact ⟨h.cpu, h.ppu, h.apu, h.cart, h.ram, h.vram⟩
    · exact h

theorem dmcFill_inv {s : State} (h : s.Inv) : (dmcFill s).Inv := by
  obtain ⟨h1, h2, h3, h4, h5⟩ := h.apu
  rw [dmcFill_eq h5]
  split
  · have k : ∀ (v ob : Byte) (n : Nat), State.Inv { s with
        apu := { s.apu with dmc := { s.apu.dmc with sampleBuffer := v, bufferEmpty := false, currentAddr := dmcNextAddr s.apu.dmc.currentAddr, bytesRemaining := s.apu.dmc.bytesRemaining - 1 } }
        cpu := { s.cpu with stallCycles := n }, openBus := ob } := fun v ob n =>
      ⟨h.cpu, h.ppu, ⟨h1, h2, h3, h4, dmcNextAddr_high h5⟩, h.cart, h.ram, h.vram⟩
    simp only
    split
    · exact dmcSampleEnd_inv (k _ _ _)
    · exact k _ _ _
  · exact h

/-- Quarter and half frames touch none of the invariant's fields. -/
theorem quarterFrame_inv {a : Apu} (h : a.Inv) : a.quarterFrame.Inv := h

theorem halfFrame_inv {a : Apu} (h : a.Inv) : a.halfFrame.Inv := h

theorem writeRegister_inv {a : Apu} (h : a.Inv) (n : Nat) (v : Byte) : (a.writeRegister n v).Inv := by
  obtain ⟨h1, h2, h3, h4, h5⟩ := h
  unfold Apu.writeRegister
  split
  case h_19 =>
    have k : Apu.Inv { a with
        seqMode := v.getLsbD 7, irqInhibit := v.getLsbD 6, frameIrq := a.frameIrq && !v.getLsbD 6, frameCycle := 0 } :=
      ⟨by simp only; split <;> decide, h2, h3, h4, h5⟩
    unfold Apu.frameCounterWrite
    simp only
    split
    · exact halfFrame_inv (quarterFrame_inv k)
    · exact k
  all_goals exact ⟨h1, h2, h3, h4, h5⟩

theorem apuEnableWrite_inv {s : State} (h : s.Inv) (v : Byte) : (apuEnableWrite v s).Inv := by
  obtain ⟨h1, h2, h3, h4, h5⟩ := h.apu
  unfold apuEnableWrite
  simp only
  split
  · exact h.setApu ⟨h1, h2, h3, h4, h5⟩
  · split
    · exact dmcFill_inv (h.setApu ⟨h1, h2, h3, h4, restart_high _⟩)
    · exact h.setApu ⟨h1, h2, h3, h4, h5⟩

theorem apuRegisterWrite_inv {s : State} (h : s.Inv) (n : Nat) (v : Byte) : (apuRegisterWrite n v s).Inv := by
  unfold apuRegisterWrite
  split
  · exact apuEnableWrite_inv h v
  · exact h.setApu (writeRegister_inv h.apu n v)

/-! OAM DMA. -/

theorem oamDmaByte_inv {s : State} (h : s.Inv) (v : Byte) (i : Nat) : (oamDmaByte v i s).Inv := by
  have k := busRead_inv h (mkWord v (BitVec.ofNat 8 i))
  obtain ⟨h1, h2, h3, h4, h5⟩ := k.ppu
  exact ⟨k.cpu, ⟨h1, h2, h3, Mem.write_wf h4 (Nat.mod_lt _ (by decide)) _, h5⟩, k.apu, k.cart, k.ram, k.vram⟩

theorem oamDmaCopy_inv (v : Byte) (l : List Nat) {s : State} (h : s.Inv) : (oamDmaCopy v l s).Inv := by
  induction l generalizing s with
  | nil => exact h
  | cons i l ih => exact ih (oamDmaByte_inv h v i)

theorem oamDma_inv {s : State} (h : s.Inv) (v : Byte) : (oamDma v s).Inv :=
  (oamDmaCopy_inv v (List.range 256) h).withCpu (oamDmaCopy_inv v (List.range 256) h).cpu

/-! The cartridge. -/

theorem bank_toNat (v : Byte) (n : Nat) : (BitVec.ofNat 8 (v.toNat % n)).toNat = v.toNat % n := by
  have h1 : v.toNat % n ≤ v.toNat := Nat.mod_le _ _
  have h2 : v.toNat < 256 := v.isLt
  rw [BitVec.toNat_ofNat]
  exact Nat.mod_eq_of_lt (by omega)

theorem writeProgram_inv {s : State} (h : s.Inv) {a : Nat} (ha : 0x6000 ≤ a) (v : Byte) : (writeProgram a v s).Inv := by
  obtain ⟨h1, h2, h3, h4, h5, h6⟩ := h.cart
  unfold writeProgram
  split
  · unfold writeRom
    split
    · exact ⟨h.cpu, h.ppu, h.apu, h.cart, h.ram, h.vram⟩
    · refine ⟨h.cpu, h.ppu, h.apu, ⟨h1, h2, h3, h4, h5, ?_⟩, h.ram, h.vram⟩
      show (BitVec.ofNat 8 (v.toNat % s.cart.prgBanks)).toNat < s.cart.prgBanks
      rw [bank_toNat]
      exact Nat.mod_lt _ (by omega)
    · refine ⟨h.cpu, h.ppu, h.apu, ⟨h1, h2, h3, h4, h5, ?_⟩, h.ram, h.vram⟩
      show (BitVec.ofNat 8 (v.toNat % max s.cart.chrBanks 1)).toNat < max s.cart.chrBanks 1
      rw [bank_toNat]
      exact Nat.mod_lt _ (by omega)
  · split
    · exact ⟨h.cpu, h.ppu, h.apu, ⟨h1, h2, h3, Mem.write_wf h4 (by omega) v, h5, h6⟩, h.ram, h.vram⟩
    · exact ⟨h.cpu, h.ppu, h.apu, h.cart, h.ram, h.vram⟩

theorem busWrite_inv {s : State} (h : s.Inv) (a : Word) (v : Byte) : (busWrite a v s).Inv := by
  unfold busWrite
  simp only
  split
  · exact ⟨h.cpu, h.ppu, h.apu, h.cart, Mem.write_wf h.ram (Nat.mod_lt _ (by decide)) v, h.vram⟩
  split
  · exact ppuPortWrite_inv h _ v
  split
  · exact apuRegisterWrite_inv h _ v
  split
  · exact oamDma_inv h v
  split
  · unfold controllerStrobe
    simp only
    split <;> exact ⟨h.cpu, h.ppu, h.apu, h.cart, h.ram, h.vram⟩
  split
  · exact apuRegisterWrite_inv h _ v
  split
  · exact ⟨h.cpu, h.ppu, h.apu, h.cart, h.ram, h.vram⟩
  · exact writeProgram_inv h (by omega) v

/-! The stack. -/

theorem push8_inv {s : State} (h : s.Inv) (v : Byte) : (push8 v s).Inv := by
  rw [push8_eq]
  exact ⟨h.cpu, h.ppu, h.apu, h.cart, Mem.write_wf h.ram (by omega) v, h.vram⟩

theorem push16_inv {s : State} (h : s.Inv) (w : Word) : (push16 w s).Inv := push8_inv (push8_inv h _) _

theorem enterInterrupt_inv {s : State} (h : s.Inv) (savedP : Byte) {vector : Word} (hv : 0x8000 ≤ vector.toNat)
    (hv' : vector.toNat < 0xFFFF) : (enterInterrupt savedP vector s).Inv := by
  rw [enterInterrupt_eq savedP hv hv']
  exact ⟨putBit2_inv h.cpu true, h.ppu, h.apu, h.cart,
    Mem.write_wf (Mem.write_wf (Mem.write_wf h.ram (by omega) _) (by omega) _) (by omega) _, h.vram⟩

/-! The PPU's cycle. -/

theorem Ppu.loadSprite_inv (rd : Nat → Byte) (slot i row h : Nat) {p : Ppu} (k : p.Inv) : (p.loadSprite rd slot i row h).Inv := k

theorem Ppu.spriteScan_inv (rd : Nat → Byte) (h : Nat) (l : List Nat) {p : Ppu} (k : p.Inv) : (p.spriteScan rd h l).Inv := by
  induction l generalizing p with
  | nil => exact k
  | cons i l ih =>
    obtain ⟨k1, k2, k3, k4⟩ := k
    unfold Ppu.spriteScan
    simp only
    split
    · split
      · exact ⟨k1, k2, k3, k4⟩
      · exact ih ⟨k1, k2, by simp only; omega, k4⟩
    · exact ih ⟨k1, k2, k3, k4⟩

theorem Ppu.spriteDot257_inv (rd : Nat → Byte) {p : Ppu} (k : p.Inv) : (p.spriteDot257 rd).Inv := by
  obtain ⟨k1, k2, k3, k4⟩ := k
  unfold Ppu.spriteDot257
  simp only
  split
  · exact Ppu.spriteScan_inv rd _ _ ⟨k1, k2, Nat.zero_le _, k4⟩
  · exact ⟨k1, k2, Nat.zero_le _, k4⟩

theorem Ppu.backgroundDot_inv (rd : Nat → Byte) {p : Ppu} (k : p.Inv) : (p.backgroundDot rd).Inv := by
  obtain ⟨_, _, _, _, _, _, _, _, _, e⟩ := p.backgroundDot_does rd
  rw [e]
  exact k

theorem Ppu.composePixel_inv {p : Ppu} (k : p.Inv) {x y : Nat} (hx : x < 256) (hy : y < 240) : (p.composePixel x y).Inv := by
  obtain ⟨k1, k2, k3, k4, k5, k6⟩ := k
  refine ⟨k1, k2, k3, k4, k5, ?_⟩
  refine Frame.write_wf k6 hx hy ?_
  split
  · exact grey_lt _ (Mem.read_lt64 k5 _)
  · exact Mem.read_lt64 k5 _

theorem Ppu.backgroundDot_pos (rd : Nat → Byte) (p : Ppu) :
    (p.backgroundDot rd).dot = p.dot ∧ (p.backgroundDot rd).scanline = p.scanline := by
  obtain ⟨_, _, _, _, _, _, _, _, _, e⟩ := p.backgroundDot_does rd
  rw [e]
  exact ⟨rfl, rfl⟩

theorem Ppu.renderDot_inv (rd : Nat → Byte) {p : Ppu} (k : p.Inv) : (p.renderDot rd).Inv := by
  have hb := Ppu.backgroundDot_inv rd k
  unfold Ppu.renderDot
  simp only
  split_ifs
  all_goals first
    | exact Ppu.composePixel_inv (Ppu.spriteDot257_inv rd hb) (by omega) (by omega)
    | exact Ppu.composePixel_inv (Ppu.spriteDot257_inv rd k) (by omega) (by omega)
    | exact Ppu.composePixel_inv hb (by omega) (by omega)
    | exact Ppu.composePixel_inv k (by omega) (by omega)
    | exact Ppu.spriteDot257_inv rd hb
    | exact Ppu.spriteDot257_inv rd k
    | exact hb
    | exact k

theorem Ppu.flagDot_inv {p : Ppu} (k : p.Inv) : p.flagDot.Inv := by
  unfold Ppu.flagDot
  split_ifs <;> exact k

theorem Ppu.advance_inv {p : Ppu} (k : p.Inv) : p.advance.Inv := by
  obtain ⟨k1, k2, k3⟩ := k
  unfold Ppu.advance
  split_ifs
  · exact ⟨Nat.le_of_ble_eq_true rfl, Nat.zero_le _, k3⟩
  · exact ⟨Nat.zero_le _, Nat.zero_le _, k3⟩
  · exact ⟨by simp only; omega, by simp only; omega, k3⟩
  · exact ⟨by simp only; omega, k2, k3⟩

theorem ppuTick_inv {s : State} (h : s.Inv) : (ppuTick s).Inv := by
  rw [ppuTick_eq]
  exact ⟨h.cpu, Ppu.advance_inv (Ppu.flagDot_inv (Ppu.renderDot_inv _ h.ppu)), h.apu, h.cart, h.ram, h.vram⟩

/-! The APU's cycle. -/

theorem dmcOutputClock_inv {s : State} (h : s.Inv) : (dmcOutputClock s).Inv := by
  obtain ⟨h1, h2, h3, h4, h5⟩ := h.apu
  unfold dmcOutputClock
  simp only
  split
  · split
    · exact h.setApu ⟨h1, h2, Nat.le_of_ble_eq_true rfl, Nat.le_of_ble_eq_true rfl, h5⟩
    · exact dmcFill_inv (h.setApu ⟨h1, h2, Nat.le_of_ble_eq_true rfl, Nat.le_of_ble_eq_true rfl, h5⟩)
  · exact h.setApu ⟨h1, h2, by simp only; omega, by simp only; omega, h5⟩

theorem dmcTimer_inv {s : State} (h : s.Inv) : (dmcTimer s).Inv := by
  unfold dmcTimer
  simp only
  split
  · exact dmcOutputClock_inv (h.setApu h.apu)
  · exact h.setApu h.apu

/-- The noise shifter's step never reaches 0 (62_apu R1230). -/
theorem lfsrNext_ne_zero (mode : Bool) {l : BitVec 15} (h : l ≠ 0) : lfsrNext mode l ≠ 0 := by
  intro e
  apply h
  have hb (k : Nat) : (l >>> 1 ||| (if (l.getLsbD 0 ^^ (if mode = true then l.getLsbD 6 else l.getLsbD 1)) = true
      then 0x4000#15 else 0#15)).getLsbD k = (0#15).getLsbD k := by
    have e' := congrArg (fun x => x.getLsbD k) e
    exact e'
  have h14 := hb 14
  have hrest (k : Nat) (hk : k < 14) : l.getLsbD (k + 1) = false := by
    have := hb k
    simp only [BitVec.getLsbD_or, BitVec.getLsbD_ushiftRight, BitVec.getLsbD_zero, Bool.or_eq_false_iff] at this
    rw [Nat.add_comm k 1]
    exact this.1
  have h0 : l.getLsbD 0 = false := by
    have h1 := hrest 0 (by decide)
    have h6 := hrest 5 (by decide)
    simp only [Nat.zero_add, Nat.reduceAdd] at h1 h6
    rw [h1, h6, ite_self, Bool.xor_false] at h14
    cases hl : l.getLsbD 0 with
    | false => rfl
    | true =>
      rw [hl] at h14
      simp at h14
  apply BitVec.eq_of_getLsbD_eq
  intro k hk
  show l.getLsbD k = (0#15).getLsbD k
  rw [BitVec.getLsbD_zero]
  cases k with
  | zero => exact h0
  | succ k => exact hrest k (by omega)

theorem clockTimers_inv {a : Apu} (h : a.Inv) : a.clockTimers.Inv := by
  obtain ⟨h1, h2, h3⟩ := h
  refine ⟨h1, ?_, h3⟩
  show a.noise.clockTimer.lfsr ≠ 0
  unfold Noise.clockTimer
  split
  · exact lfsrNext_ne_zero _ h2
  · exact h2

theorem frameSequencer_inv {s : State} (h : s.Inv) : (frameSequencer s).Inv := by
  obtain ⟨h1, h2⟩ := h.apu
  have k : Apu.Inv { s.apu with
      frameCycle := if (sequencerEvent s.apu.seqMode (s.apu.frameCycle + 1)).wrap then 0 else s.apu.frameCycle + 1 } := by
    refine ⟨?_, h2⟩
    simp only [sequencerEvent]
    cases hm : s.apu.seqMode
    · simp only [hm, Bool.false_eq_true, if_false, beq_iff_eq] at h1 ⊢
      split <;> omega
    · simp only [hm, if_true, beq_iff_eq] at h1 ⊢
      split <;> omega
  have k2 : ∀ a : Apu, a.Inv → State.Inv { s with apu := a } := fun a ha => h.setApu ha
  unfold frameSequencer
  simp only
  have ka : Apu.Inv (if (sequencerEvent s.apu.seqMode (s.apu.frameCycle + 1)).half = true then
      (if (sequencerEvent s.apu.seqMode (s.apu.frameCycle + 1)).quarter = true then
        Apu.quarterFrame { s.apu with
          frameCycle := if (sequencerEvent s.apu.seqMode (s.apu.frameCycle + 1)).wrap = true then 0 else s.apu.frameCycle + 1 }
       else { s.apu with
          frameCycle := if (sequencerEvent s.apu.seqMode (s.apu.frameCycle + 1)).wrap = true then 0 else s.apu.frameCycle + 1 }).halfFrame
      else (if (sequencerEvent s.apu.seqMode (s.apu.frameCycle + 1)).quarter = true then
        Apu.quarterFrame { s.apu with
          frameCycle := if (sequencerEvent s.apu.seqMode (s.apu.frameCycle + 1)).wrap = true then 0 else s.apu.frameCycle + 1 }
       else { s.apu with
          frameCycle := if (sequencerEvent s.apu.seqMode (s.apu.frameCycle + 1)).wrap = true then 0 else s.apu.frameCycle + 1 })) := by
    split
    · split
      · exact halfFrame_inv (quarterFrame_inv k)
      · exact halfFrame_inv k
    · split
      · exact quarterFrame_inv k
      · exact k
  split
  · have := k2 _ ka
    exact ⟨this.cpu, this.ppu, this.apu, this.cart, this.ram, this.vram⟩
  · exact k2 _ ka

theorem accumulateSample_inv {s : State} (h : s.Inv) : (accumulateSample s).Inv := by
  unfold accumulateSample
  split
  · exact h
  · exact h.setApu h.apu

theorem apuTick_inv {s : State} (h : s.Inv) : (apuTick s).Inv := by
  unfold apuTick
  simp only
  apply accumulateSample_inv
  apply frameSequencer_inv
  split
  · have k := dmcTimer_inv (h.setApu (clockTimers_inv (a := { s.apu with triangle := s.apu.triangle.clockTimer }) h.apu))
    exact k.setApu k.apu
  · exact h.setApu h.apu

theorem deviceCycle_inv {s : State} (h : s.Inv) : (deviceCycle s).Inv := apuTick_inv (ppuTick_inv (ppuTick_inv (ppuTick_inv h)))

theorem runDevices_inv (n : Nat) {s : State} (h : s.Inv) : (runDevices n s).Inv := by
  induction n generalizing s with
  | zero => exact h
  | succ n ih => exact ih (deviceCycle_inv h)

end Sys2Proof.Machine
end

