-- ==== Sys2Proof/Laws/Writes.lean ====
section
/-! SUPPORT. What a bus write leaves alone, whatever its address: the CPU's registers, the fault record, the cartridge's image, RAM
and memory outside the byte written. -/

namespace Sys2Proof.Machine

/-- What every bus write leaves alone. Of the CPU it may change the NMI latch (never clearing it), the stall cycles and the IRQ
latch. -/
structure WriteKeeps (s t : State) : Prop where
  cpu : ∃ nmi stall latch, t.cpu = { s.cpu with nmiPending := nmi, stallCycles := stall, irqLatch := latch }
  nmi : s.cpu.nmiPending = true → t.cpu.nmiPending = true
  fault : t.fault = s.fault
  image : t.cart.image = s.cart.image

/-- A write outside the cartridge and RAM keeps these too. -/
structure PortKeeps (s t : State) : Prop where
  keeps : WriteKeeps s t
  ram : t.ram = s.ram
  mapper : t.cart.mapper = s.cart.mapper
  prgRam : t.cart.prgRam = s.cart.prgRam

theorem WriteKeeps.of_eq {s t : State} (hc : t.cpu = s.cpu) (hf : t.fault = s.fault) (hi : t.cart.image = s.cart.image) :
    WriteKeeps s t := ⟨⟨_, _, _, hc⟩, fun h => by rw [hc]; exact h, hf, hi⟩

theorem PortKeeps.of_frame {s t : State} (h : DeviceFrame s t) : PortKeeps s t :=
  ⟨⟨h.cpu, h.nmi, h.fault, by rw [h.cart]⟩, h.ram, by rw [h.cart], by rw [h.cart]⟩

theorem WriteKeeps.trans {s t u : State} (h : WriteKeeps s t) (k : WriteKeeps t u) : WriteKeeps s u := by
  obtain ⟨n1, l1, i1, h1⟩ := h.cpu
  obtain ⟨n2, l2, i2, h2⟩ := k.cpu
  exact ⟨⟨n2, l2, i2, by rw [h2, h1]⟩, fun x => k.nmi (h.nmi x), k.fault.trans h.fault, k.image.trans h.image⟩

theorem ppuWrite_keeps (a : Nat) (v : Byte) (s : State) : PortKeeps s (ppuWrite a v s) ∧ (ppuWrite a v s).cpu = s.cpu ∧
    (ppuWrite a v s).openBus = s.openBus := by
  unfold ppuWrite
  simp only
  split
  · unfold writeGraphics
    split <;> exact ⟨⟨.of_eq rfl rfl rfl, rfl, rfl, rfl⟩, rfl, rfl⟩
  · split <;> exact ⟨⟨.of_eq rfl rfl rfl, rfl, rfl, rfl⟩, rfl, rfl⟩

theorem ppuPortWrite_keeps (port : Nat) (v : Byte) (s : State) :
    PortKeeps s (ppuPortWrite port v s) ∧ (ppuPortWrite port v s).openBus = s.openBus := by
  unfold ppuPortWrite
  split
  · exact ⟨⟨⟨⟨_, _, _, rfl⟩, fun h => by simp only [ppuCtrlWrite, h, Bool.true_or], rfl, rfl⟩, rfl, rfl, rfl⟩, rfl⟩
  · exact ⟨⟨.of_eq rfl rfl rfl, rfl, rfl, rfl⟩, rfl⟩
  · exact ⟨⟨.of_eq rfl rfl rfl, rfl, rfl, rfl⟩, rfl⟩
  · exact ⟨⟨.of_eq rfl rfl rfl, rfl, rfl, rfl⟩, rfl⟩
  · exact ⟨⟨.of_eq rfl rfl rfl, rfl, rfl, rfl⟩, rfl⟩
  · exact ⟨⟨.of_eq rfl rfl rfl, rfl, rfl, rfl⟩, rfl⟩
  · obtain ⟨k, _, ho⟩ := ppuWrite_keeps (s.ppu.vaddr.toNat % 0x4000) v s
    exact ⟨⟨⟨k.keeps.cpu, k.keeps.nmi, k.keeps.fault, k.keeps.image⟩, k.ram, k.mapper, k.prgRam⟩, ho⟩
  · exact ⟨⟨.of_eq rfl rfl rfl, rfl, rfl, rfl⟩, rfl⟩

theorem apuEnableWrite_frame (v : Byte) (s : State) : DeviceFrame s (apuEnableWrite v s) := by
  unfold apuEnableWrite
  simp only
  split
  · exact DeviceFrame.apu s _
  · split
    · exact (DeviceFrame.apu s _).trans (dmcFill_frame _)
    · exact DeviceFrame.apu s _

theorem apuRegisterWrite_frame (n : Nat) (v : Byte) (s : State) : DeviceFrame s (apuRegisterWrite n v s) := by
  unfold apuRegisterWrite
  split
  · exact apuEnableWrite_frame v s
  · exact DeviceFrame.apu s _

/-- OAM DMA changes OAM, what its reads change, and the stall cycles. -/
theorem oamDmaCopy_keeps (v : Byte) (l : List Nat) (s : State) :
    (oamDmaCopy v l s).cpu = s.cpu ∧ (oamDmaCopy v l s).cart = s.cart ∧ (oamDmaCopy v l s).ram = s.ram ∧
      (oamDmaCopy v l s).vram = s.vram ∧ (oamDmaCopy v l s).fault = s.fault ∧ (oamDmaCopy v l s).ppu.palette = s.ppu.palette := by
  induction l generalizing s with
  | nil => exact ⟨rfl, rfl, rfl, rfl, rfl, rfl⟩
  | cons i l ih =>
    obtain ⟨h1, h2, h3, h4, h5, h6⟩ := ih (oamDmaByte v i s)
    refine ⟨h1.trans ?_, h2.trans ?_, h3.trans ?_, h4.trans ?_, h5.trans ?_, h6.trans ?_⟩ <;> simp [oamDmaByte]

theorem oamDma_keeps (v : Byte) (s : State) : PortKeeps s (oamDma v s) := by
  obtain ⟨h1, h2, h3, _, h5, _⟩ := oamDmaCopy_keeps v (List.range 256) s
  have hc : (oamDma v s).cpu = { s.cpu with stallCycles := (oamDma v s).cpu.stallCycles } := by
    simp only [oamDma, State.addStall, h1]
  exact ⟨⟨⟨_, _, _, hc⟩, fun h => by rw [hc]; exact h, h5, congrArg Cart.image h2⟩, h3, congrArg Cart.mapper h2, congrArg Cart.prgRam h2⟩

/-- A write to a device keeps RAM, PRG RAM and the mapper. -/
theorem busWrite_port {a : Word} (h : 0x1FFF < a.toNat) (h' : a.toNat ≤ 0x5FFF) (v : Byte) (s : State) : PortKeeps s (busWrite a v s) := by
  unfold busWrite
  simp only
  rw [if_neg (by omega)]
  split
  · exact (ppuPortWrite_keeps _ v s).1
  split
  · exact .of_frame (apuRegisterWrite_frame _ v s)
  split
  · exact oamDma_keeps v s
  split
  · unfold controllerStrobe
    simp only
    split <;> exact ⟨.of_eq rfl rfl rfl, rfl, rfl, rfl⟩
  split
  · exact .of_frame (apuRegisterWrite_frame _ v s)
  · exact ⟨.of_eq rfl rfl rfl, rfl, rfl, rfl⟩

/-- A write to the program space changes the bank register or the log only. -/
theorem writeRom_does (a : Nat) (v : Byte) (s : State) : ∃ m log, writeRom a v s =
    { s with cart := { s.cart with mapper := m }, host := { s.host with log := log } } ∧ m.number = s.cart.mapper.number := by
  unfold writeRom
  split <;> rename_i h
  · exact ⟨_, _, rfl, rfl⟩
  · exact ⟨_, _, rfl, by rw [h]; rfl⟩
  · exact ⟨_, _, rfl, by rw [h]; rfl⟩

/-- Every bus write keeps the registers, the fault record and the cartridge's image. -/
theorem busWrite_keeps (a : Word) (v : Byte) (s : State) : WriteKeeps s (busWrite a v s) := by
  by_cases h1 : a.toNat ≤ 0x1FFF
  · rw [busWrite_low h1]
    exact .of_eq rfl rfl rfl
  by_cases h2 : a.toNat ≤ 0x5FFF
  · exact (busWrite_port (by omega) h2 v s).keeps
  by_cases h3 : 0x8000 ≤ a.toNat
  · rw [busWrite_high h3]
    obtain ⟨m, log, h, hm⟩ := writeRom_does a.toNat v s
    rw [h]
    exact .of_eq rfl rfl (by simp only [Cart.image, hm])
  by_cases h4 : s.cart.prgRamPresent = true
  · rw [busWrite_prgRam (by omega) (by omega) h4]
    exact .of_eq rfl rfl rfl
  · have h5 : ¬(a.toNat ≤ 0x3FFF) := by omega
    have h6 : ¬(a.toNat ≤ 0x4013 ∨ a.toNat = 0x4015) := by omega
    have h7 : ¬(a.toNat = 0x4014) := by omega
    have h8 : ¬(a.toNat = 0x4016) := by omega
    have h9 : ¬(a.toNat = 0x4017) := by omega
    simp only [busWrite, h1, h2, h3, h4, h5, h6, h7, h8, h9, writeProgram, if_false]
    exact .of_eq rfl rfl rfl

/-- Only a write to RAM changes RAM. -/
theorem busWrite_ram {a : Word} (h : 0x1FFF < a.toNat) (v : Byte) (s : State) : (busWrite a v s).ram = s.ram := by
  by_cases h2 : a.toNat ≤ 0x5FFF
  · exact (busWrite_port h h2 v s).ram
  by_cases h3 : 0x8000 ≤ a.toNat
  · rw [busWrite_high h3]
    obtain ⟨m, log, e, _⟩ := writeRom_does a.toNat v s
    rw [e]
  by_cases h4 : s.cart.prgRamPresent = true
  · rw [busWrite_prgRam (by omega) (by omega) h4]
  · have h1 : ¬(a.toNat ≤ 0x1FFF) := by omega
    have h5 : ¬(a.toNat ≤ 0x3FFF) := by omega
    have h6 : ¬(a.toNat ≤ 0x4013 ∨ a.toNat = 0x4015) := by omega
    have h7 : ¬(a.toNat = 0x4014) := by omega
    have h8 : ¬(a.toNat = 0x4016) := by omega
    have h9 : ¬(a.toNat = 0x4017) := by omega
    simp only [busWrite, h1, h2, h3, h4, h5, h6, h7, h8, h9, writeProgram, if_false]
    rfl

/-! No write looks at the registers. -/

/-- The counters and latches of one CPU record with the registers and scratch fields of another. -/
def Cpu.regsOf (c d : Cpu) : Cpu :=
  { d with cycles := c.cycles, totalCycles := c.totalCycles, stallCycles := c.stallCycles, nmiPending := c.nmiPending, irqLatch := c.irqLatch }

/-- A state with the registers and scratch fields of a CPU record. -/
def State.withRegs (d : Cpu) (s : State) : State := { s with cpu := s.cpu.regsOf d }

theorem ppuPortWrite_withRegs (port : Nat) (v : Byte) (d : Cpu) (s : State) :
    ppuPortWrite port v (s.withRegs d) = (ppuPortWrite port v s).withRegs d := by
  unfold ppuPortWrite
  split <;> try rfl
  have h (a : Nat) : ppuWrite a v (s.withRegs d) = (ppuWrite a v s).withRegs d := by
    unfold ppuWrite writeGraphics
    simp only
    split
    · have e : (s.withRegs d).cart = s.cart := rfl
      rw [e]
      split <;> rfl
    · split <;> rfl
  unfold ppuDataWrite
  simp only [h]
  rfl

theorem dmcSampleEnd_withRegs (d : Cpu) (s : State) : dmcSampleEnd (s.withRegs d) = (dmcSampleEnd s).withRegs d := by
  have e : (s.withRegs d).apu = s.apu := rfl
  unfold dmcSampleEnd
  rw [e]
  split
  · rfl
  · split <;> rfl

theorem dmcFill_withRegs (d : Cpu) (s : State) : dmcFill (s.withRegs d) = (dmcFill s).withRegs d := by
  have e : (s.withRegs d).apu = s.apu := rfl
  have hb (a : Word) : busRead a (s.withRegs d) = ((busRead a s).1, (busRead a s).2.withRegs d) := by
    unfold State.withRegs
    rw [busRead_withCpu, busRead_cpu]
  have key (t : State) : (if (t.withRegs d).apu.dmc.bytesRemaining = 0 then dmcSampleEnd (t.withRegs d) else t.withRegs d) =
      (if t.apu.dmc.bytesRemaining = 0 then dmcSampleEnd t else t).withRegs d := by
    have e : (t.withRegs d).apu = t.apu := rfl
    rw [e]
    split
    · exact dmcSampleEnd_withRegs d t
    · rfl
  unfold dmcFill
  rw [e]
  split
  · rw [hb]
    exact key (((busRead s.apu.dmc.currentAddr s).2.addStall Config.dmcFetchStall).setDmc
      { (busRead s.apu.dmc.currentAddr s).2.apu.dmc with
        sampleBuffer := (busRead s.apu.dmc.currentAddr s).1, bufferEmpty := false
        currentAddr := dmcNextAddr (busRead s.apu.dmc.currentAddr s).2.apu.dmc.currentAddr
        bytesRemaining := (busRead s.apu.dmc.currentAddr s).2.apu.dmc.bytesRemaining - 1 })
  · rfl

theorem apuRegisterWrite_withRegs (n : Nat) (v : Byte) (d : Cpu) (s : State) :
    apuRegisterWrite n v (s.withRegs d) = (apuRegisterWrite n v s).withRegs d := by
  unfold apuRegisterWrite apuEnableWrite
  have e : (s.withRegs d).apu = s.apu := rfl
  rw [e]
  simp only
  split
  · split
    · rfl
    · split
      · refine Eq.trans ?_ (dmcFill_withRegs d _)
        rfl
      · rfl
  · rfl

theorem oamDmaCopy_withRegs (v : Byte) (l : List Nat) (d : Cpu) (s : State) :
    oamDmaCopy v l (s.withRegs d) = (oamDmaCopy v l s).withRegs d := by
  induction l generalizing s with
  | nil => rfl
  | cons i l ih =>
    have h : oamDmaByte v i (s.withRegs d) = (oamDmaByte v i s).withRegs d := by
      unfold oamDmaByte State.withRegs
      rw [busRead_withCpu]
      simp only [busRead_cpu]
    unfold oamDmaCopy
    rw [h]
    exact ih _

/-- A write does the same whatever the registers hold, and leaves them as they are. -/
theorem busWrite_withRegs (a : Word) (v : Byte) (d : Cpu) (s : State) : busWrite a v (s.withRegs d) = (busWrite a v s).withRegs d := by
  unfold busWrite
  simp only
  split
  · rfl
  split
  · exact ppuPortWrite_withRegs _ v d s
  split
  · exact apuRegisterWrite_withRegs _ v d s
  split
  · unfold oamDma
    simp only [oamDmaCopy_withRegs]
    rfl
  split
  · have e : (s.withRegs d).pads = s.pads := rfl
    unfold controllerStrobe
    rw [e]
    simp only
    split <;> rfl
  split
  · exact apuRegisterWrite_withRegs _ v d s
  split
  · rfl
  · have e : (s.withRegs d).cart = s.cart := rfl
    unfold writeProgram writeRom
    rw [e]
    split
    · split <;> rfl
    · split <;> rfl

end Sys2Proof.Machine

namespace Sys2Proof.Claims

open Sys2Proof.Machine

/-- The byte of CPU memory at an address depends on RAM, the mapped ROM byte, or PRG RAM and its presence. -/
theorem memoryAt_of_parts {s t : State} {a : Word}
    (hr : a.toNat ≤ 0x1FFF → t.ram.read (a.toNat % 0x800) = s.ram.read (a.toNat % 0x800))
    (hp : 0x8000 ≤ a.toNat → t.cart.prgByte a.toNat = s.cart.prgByte a.toNat)
    (hw : 0x6000 ≤ a.toNat → a.toNat ≤ 0x7FFF → t.cart.prgRam.read (a.toNat - 0x6000) = s.cart.prgRam.read (a.toNat - 0x6000))
    (hb : t.cart.battery = s.cart.battery) : memoryAt t a = memoryAt s a := by
  unfold memoryAt
  have hm : t.isMemory a = s.isMemory a := by simp only [State.isMemory, Cart.prgRamPresent, hb]
  rw [hm]
  split
  · rename_i h
    by_cases h1 : a.toNat ≤ 0x1FFF
    · rw [busRead_low h1, busRead_low h1, hr h1]
    · by_cases h2 : 0x8000 ≤ a.toNat
      · rw [busRead_high h2, busRead_high h2, hp h2]
      · simp only [State.isMemory, h1, h2, decide_false, Bool.or_false, Bool.false_or, Bool.and_eq_true, decide_eq_true_eq] at h
        have hbt : t.cart.prgRamPresent = true := by simpa [Cart.prgRamPresent, hb] using h.2
        rw [busRead_prgRam h.1 (by omega) hbt, busRead_prgRam h.1 (by omega) h.2, hw h.1 (by omega)]
  · rfl

/-- The ROM byte of an image depends on the bank register only. -/
theorem prgByte_congr {c d : Cart} (hm : d.mapper = c.mapper) (hi : d.image = c.image) (a : Nat) : d.prgByte a = c.prgByte a := by
  simp only [Cart.image, Prod.mk.injEq] at hi
  simp only [Cart.prgByte, hm, hi]

/-- Every bus write keeps the bytes of CPU memory outside those it touches. -/
theorem busWrite_memoryAt {s : State} (hs : s.Inv) (ea : Word) (v : Byte) {a : Word} (h : touches s ea a = false) :
    memoryAt (busWrite ea v s) a = memoryAt s a := by
  simp only [touches, sameRamByte, Bool.or_eq_false_iff, Bool.and_eq_false_iff, decide_eq_false_iff_not] at h
  by_cases h1 : ea.toNat ≤ 0x1FFF
  · rw [busWrite_low h1]
    refine memoryAt_of_parts (s := s) (t := { s with ram := _ }) (fun h2 => ?_) (fun _ => rfl) (fun _ _ => rfl) rfl
    have hne : a.toNat % 0x800 ≠ ea.toNat % 0x800 := by
      obtain ⟨⟨h, _⟩, _⟩ := h
      rcases h with (h | h) | h
      · exact absurd h1 h
      · exact absurd h2 h
      · intro e
        rw [e] at h
        simp at h
    exact Mem.read_write_ne hs.ram hne v
  by_cases h2 : ea.toNat ≤ 0x5FFF
  · have k := busWrite_port (by omega) h2 v s
    refine memoryAt_of_parts (fun _ => by rw [k.ram]) (fun _ => prgByte_congr k.mapper k.keeps.image _) (fun _ _ => by rw [k.prgRam]) ?_
    have := k.keeps.image
    simp only [Cart.image, Prod.mk.injEq] at this
    exact this.2.2.2.2.1
  by_cases h3 : 0x8000 ≤ ea.toNat
  · rw [busWrite_high h3]
    refine memoryAt_of_parts (fun _ => ?_) (fun h4 => ?_) (fun _ _ => ?_) ?_
    · obtain ⟨m, log, e, _⟩ := writeRom_does ea.toNat v s
      rw [e]
    · unfold writeRom
      split
      · rfl
      · rename_i bank hb
        obtain ⟨_, h⟩ := h
        have h5 : ¬a.toNat ≤ 0xBFFF := by
          rcases h with ((h | h) | h) | h
          · exact absurd h3 h
          · exact absurd h4 h
          · exact h
          · rw [hb] at h
            exact absurd rfl h
        simp only [Cart.prgByte, hb, h5, if_false]
      · rename_i bank hb
        simp only [Cart.prgByte, hb]
    · obtain ⟨m, log, e, _⟩ := writeRom_does ea.toNat v s
      rw [e]
    · obtain ⟨m, log, e, _⟩ := writeRom_does ea.toNat v s
      rw [e]
  by_cases h4 : s.cart.prgRamPresent = true
  · rw [busWrite_prgRam (by omega) (by omega) h4]
    refine memoryAt_of_parts (s := s) (t := { s with cart := { s.cart with prgRam := _ } }) (fun _ => rfl) (fun _ => rfl)
      (fun h6 h7 => ?_) rfl
    have hne : a ≠ ea := by
      rintro rfl
      obtain ⟨⟨_, h⟩, _⟩ := h
      rcases h with (h | h) | h
      · omega
      · omega
      · simp at h
    have : a.toNat ≠ ea.toNat := fun e => hne (BitVec.eq_of_toNat_eq e)
    exact Mem.read_write_ne hs.cart.2.2.2.1 (by omega) v
  · have h5 : ¬(ea.toNat ≤ 0x3FFF) := by omega
    have h6 : ¬(ea.toNat ≤ 0x4013 ∨ ea.toNat = 0x4015) := by omega
    have h7 : ¬(ea.toNat = 0x4014) := by omega
    have h8 : ¬(ea.toNat = 0x4016) := by omega
    have h9 : ¬(ea.toNat = 0x4017) := by omega
    have e : busWrite ea v s = s.addLog (.unmappedWrite ea.toNat v) := by
      simp only [busWrite, h1, h2, h3, h4, h5, h6, h7, h8, h9, writeProgram, if_false]
      rfl
    rw [e]
    exact memoryAt_congr (s := s) (t := s.addLog (.unmappedWrite ea.toNat v)) rfl rfl a

/-- A store to RAM or to 0x6000-0x7FFF leaves the PPU's space and OAM alone. -/
theorem busWrite_ppu {ea : Word} (h : ea.toNat ≤ 0x1FFF ∨ (0x6000 ≤ ea.toNat ∧ ea.toNat ≤ 0x7FFF)) (v : Byte) (s : State) :
    (∀ a, ppuRead (busWrite ea v s) a = ppuRead s a) ∧ ∀ k, (busWrite ea v s).ppu.oam.read k = s.ppu.oam.read k := by
  by_cases h1 : ea.toNat ≤ 0x1FFF
  · rw [busWrite_low h1]
    exact ⟨fun _ => rfl, fun _ => rfl⟩
  by_cases h4 : s.cart.prgRamPresent = true
  · rw [busWrite_prgRam (by omega) (by omega) h4]
    exact ⟨fun _ => rfl, fun _ => rfl⟩
  · have h2 : ¬(ea.toNat ≤ 0x5FFF) := by omega
    have h3 : ¬(0x8000 ≤ ea.toNat) := by omega
    have h5 : ¬(ea.toNat ≤ 0x3FFF) := by omega
    have h6 : ¬(ea.toNat ≤ 0x4013 ∨ ea.toNat = 0x4015) := by omega
    have h7 : ¬(ea.toNat = 0x4014) := by omega
    have h8 : ¬(ea.toNat = 0x4016) := by omega
    have h9 : ¬(ea.toNat = 0x4017) := by omega
    have e : busWrite ea v s = s.addLog (.unmappedWrite ea.toNat v) := by
      simp only [busWrite, h1, h2, h3, h4, h5, h6, h7, h8, h9, writeProgram, if_false]
      rfl
    rw [e]
    exact ⟨fun _ => rfl, fun _ => rfl⟩

end Sys2Proof.Claims
end

