-- ==== Sys2Proof/Laws/Whole.lean ====
section
/-! SUPPORT. Laws over all instructions at once: the access classes cover the set; every instruction completes and keeps the fault
record, the cartridge's image, the NMI latch, `totalCycles` and the invariant. -/

namespace Sys2Proof.Claims

open Sys2Proof.Machine

/-- The access classes cover the instruction set. -/
theorem classes (m : Mnemonic) :
    (∃ op, readOp m = some op) ∨ (∃ val, storeReg m = some val) ∨ (∃ fg, modifyOp m = some fg) ∨ (∃ op, impliedOp m = some op) ∨
      (∃ c, branchCond m = some c) ∨ m = .jmp ∨ m = .jsr := by
  cases m <;> simp [readOp, storeReg, modifyOp, impliedOp, branchCond]

/-- JSR in closed form. -/
theorem exec_jsr (a : Word) (s : State) : exec (.jsr a) s =
    .next { s with
      ram := (s.ram.write (0x100 + s.cpu.s.toNat) (hiByte (s.cpu.pc - 1))).write (0x100 + (s.cpu.s - 1).toNat) (loByte (s.cpu.pc - 1))
      openBus := jsrHigh (s.cpu.pc - 1) (s.cpu.pc - 1) s.cpu.s (hiByte a)
      cpu := { s.cpu with
        s := s.cpu.s - 1 - 1, pc := mkWord (jsrHigh (s.cpu.pc - 1) (s.cpu.pc - 1) s.cpu.s (hiByte a)) (loByte a)
        cycles := s.cpu.cycles + 6, modeExtra := 0, insnExtra := 0 } } := by
  have h : exec (.jsr a) s = .next (jsrOp a (s.start 6)) := rfl
  rw [h]
  simp only [jsrOp, push16_eq, State.start, State.setOpenBus, State.setPc]

/-- The row's count, beside the extra cycles. -/
theorem cycles_bounds (i : Instr) : 2 ≤ i.cycles ∧ i.cycles ≤ 7 ∧ (i.penalty = true → i.cycles ≤ 5) := by
  cases i <;>
    exact ⟨Nat.le_of_ble_eq_true rfl, Nat.le_of_ble_eq_true rfl,
      fun h => by first | exact Nat.le_of_ble_eq_true rfl | exact absurd h Bool.false_ne_true⟩

theorem spent_bounds (i : Instr) (s : State) : s.cpu.cycles + 2 ≤ spent i s ∧ spent i s ≤ s.cpu.cycles + 7 := by
  obtain ⟨h1, h2, h3⟩ := cycles_bounds i
  unfold spent modeCycles
  cases hp : i.penalty
  · simp only [Bool.false_and, Bool.false_eq_true, if_false]
    omega
  · have := h3 hp
    split <;> omega

/-- P's bits 5 and 4. -/
theorem inv_of_flags {p q : Byte} (h : p.getLsbD 5 = true ∧ p.getLsbD 4 = false) (hu : (flags q).u = (flags p).u)
    (hb : (flags q).b = (flags p).b) : q.getLsbD 5 = true ∧ q.getLsbD 4 = false :=
  ⟨hu.trans h.1, hb.trans h.2⟩

/-- What a read-class operation changes: A, X, Y and P, and never P's bits 5 and 4. -/
theorem readOp_does {m : Mnemonic} {op : Byte → State → State} (h : readOp m = some op) (v : Byte) (t : State) :
    ∃ a x y p, op v t = { t with cpu := { t.cpu with a := a, x := x, y := y, p := p } } ∧ (flags p).u = (flags t.cpu.p).u ∧
      (flags p).b = (flags t.cpu.p).b := by
  cases m <;> simp only [readOp, reduceCtorEq, Option.some.injEq] at h <;> subst h <;>
    refine ⟨_, _, _, _, rfl, ?_, ?_⟩ <;>
    simp [State.setA, State.setX, State.setY, adcFlags, compareFlags, bitFlags, putZN]

/-- What a read-modify-write instruction leaves of P: bits 5 and 4. -/
theorem modifyOp_flags {m : Mnemonic} {f : Byte → Byte → Byte} {g : Byte → Byte → Byte → Byte} (h : modifyOp m = some (f, g))
    (p v r : Byte) : (flags (g p v r)).u = (flags p).u ∧ (flags (g p v r)).b = (flags p).b := by
  cases m <;> simp only [modifyOp, reduceCtorEq, Option.some.injEq, Prod.mk.injEq] at h <;> obtain ⟨rfl, rfl⟩ := h <;>
    simp [incFlags, aslFlags, lsrFlags, rolFlags, rorFlags, shiftFlags, putZN]

/-- What an implied operation changes: the CPU, RAM and `openBus`. From a good state it leaves RAM and P good. -/
theorem impliedOp_does {m : Mnemonic} {op : State → State} (h : impliedOp m = some op) (t : State) :
    ∃ a x y sp p pc ram ob, op t =
      { t with cpu := { t.cpu with a := a, x := x, y := y, s := sp, p := p, pc := pc }, ram := ram, openBus := ob } ∧
      (Mem.wf 2048 t.ram = true → Mem.wf 2048 ram = true) ∧ (t.cpu.Inv → p.getLsbD 5 = true ∧ p.getLsbD 4 = false) := by
  cases m <;> simp only [impliedOp, reduceCtorEq, Option.some.injEq] at h <;> subst h
  case pha =>
    exact ⟨_, _, _, _, _, _, _, _, push8_eq _ t, fun h => Mem.write_wf h (by omega) _, id⟩
  case php =>
    exact ⟨_, _, _, _, _, _, _, _, push8_eq _ t, fun h => Mem.write_wf h (by omega) _, id⟩
  case pla =>
    refine ⟨_, _, _, _, _, _, _, _, by simp only [plaOp, pull8_eq, State.setA, State.setZN, State.setP]; rfl, id, fun h => ?_⟩
    exact inv_of_flags h (by simp [putZN]) (by simp [putZN])
  case plp =>
    refine ⟨_, _, _, _, _, _, _, _, by simp only [plpOp, pull8_eq, State.setP]; rfl, id, fun _ => pulledP_inv _⟩
  case rts =>
    exact ⟨_, _, _, _, _, _, _, _, by simp only [rtsOp, pull16_eq, State.setPc]; rfl, id, id⟩
  case brk =>
    refine ⟨_, _, _, _, _, _, _, _, enterInterrupt_eq _ (by decide) (by decide) _, fun h => ?_, fun h => putBit2_inv h true⟩
    exact Mem.write_wf (Mem.write_wf (Mem.write_wf h (by omega) _) (by omega) _) (by omega) _
  case rti =>
    exact ⟨_, _, _, _, _, _, _, _, returnFromInterrupt_eq t, id, fun _ => pulledP_inv _⟩
  all_goals
    refine ⟨_, _, _, _, _, _, _, _, rfl, id, fun h => ?_⟩
    exact inv_of_flags h (by simp [putZN, State.setA, State.setX, State.setY]) (by simp [putZN, State.setA, State.setX, State.setY])

/-- What every instruction keeps, and the cycles it counts. -/
structure ExecKeeps (s t : State) : Prop where
  fault : t.fault = s.fault
  image : t.cart.image = s.cart.image
  nmi : s.cpu.nmiPending = true → t.cpu.nmiPending = true
  total : t.cpu.totalCycles = s.cpu.totalCycles
  low : s.cpu.cycles + 2 ≤ t.cpu.cycles
  high : t.cpu.cycles ≤ s.cpu.cycles + 7
  inv : s.Inv → t.Inv

theorem resolved_inv {s : State} (h : s.Inv) (i : Instr) : (resolved i s).Inv := by
  unfold resolved baseAddress
  split
  case h_7 => exact busRead_inv (busRead_inv h _) _
  case h_8 => exact busRead_inv (busRead_inv h _) _
  case h_9 => exact busRead_inv (busRead_inv h _) _
  all_goals exact h

theorem operandM_inv {s : State} (h : s.Inv) (i : Instr) : (operandM i s).2.Inv := by
  unfold operandM
  split
  · exact h
  · exact h
  · exact busRead_inv (resolved_inv h i) _

theorem resolved_fault (i : Instr) (s : State) : (resolved i s).fault = s.fault := by
  unfold resolved baseAddress
  split <;> simp [read16Wrap, read16Zp, read16At]

theorem operandM_fault (i : Instr) (s : State) : (operandM i s).2.fault = s.fault := by
  unfold operandM
  split
  · rfl
  · rfl
  · rw [busRead_fault, resolved_fault]

/-- Every instruction completes. -/
theorem exec_keeps (i : Instr) (s : State) : ∃ t, exec i s = .next t ∧ ExecKeeps s t := by
  obtain ⟨hl, hh⟩ := spent_bounds i s
  rcases classes i.mnemonic with ⟨op, h⟩ | ⟨val, h⟩ | ⟨⟨f, g⟩, h⟩ | ⟨op, h⟩ | ⟨c, h⟩ | h | h
  · obtain ⟨ea, me, hx⟩ := exec_read h s
    obtain ⟨a, x, y, p, hd, hu, hb⟩ := readOp_does h (operandM i s).1
      { (operandM i s).2 with cpu := { s.cpu with ea := ea, modeExtra := me, insnExtra := 0, cycles := spent i s } }
    rw [hd] at hx
    refine ⟨_, hx, operandM_fault i s, congrArg Cart.image (operandM_kept i s).2.1, id, rfl, hl, hh, fun hs => ?_⟩
    exact (operandM_inv hs i).withCpu (inv_of_flags hs.cpu hu hb)
  · obtain ⟨me, hx⟩ := exec_write h s
    have k := busWrite_keeps (address i s) (val s.cpu)
      { resolved i s with cpu := { s.cpu with ea := address i s, modeExtra := me, insnExtra := 0, cycles := spent i s } }
    obtain ⟨n, l, q, hc⟩ := k.cpu
    refine ⟨_, hx, k.fault.trans (resolved_fault i s), k.image.trans (congrArg Cart.image (resolved_kept i s).2.1), k.nmi, ?_, ?_, ?_, ?_⟩
    · rw [hc]
    · rw [hc]; exact hl
    · rw [hc]; exact hh
    · intro hs
      exact busWrite_inv ((resolved_inv hs i).withCpu (c := { s.cpu with ea := address i s, modeExtra := me, insnExtra := 0, cycles := spent i s }) hs.cpu) _ _
  · by_cases hm : i.mode = .accumulator
    · have hx := exec_modifyAcc h hm s
      have hf := modifyOp_flags h s.cpu.p s.cpu.a (f s.cpu.p s.cpu.a)
      refine ⟨_, hx, rfl, rfl, id, rfl, Nat.le_refl _, Nat.add_le_add_left (Nat.le_of_ble_eq_true rfl) _, fun hs => ?_⟩
      exact hs.withCpu (inv_of_flags hs.cpu hf.1 hf.2)
    · obtain ⟨me, hx⟩ := exec_modify h hm s
      have k := busWrite_keeps (address i s) (f s.cpu.p (operandM i s).1)
        { (operandM i s).2 with cpu := { s.cpu with ea := address i s, modeExtra := me, insnExtra := 0, cycles := spent i s } }
      obtain ⟨n, l, q, hc⟩ := k.cpu
      have hf := modifyOp_flags h s.cpu.p (operandM i s).1 (f s.cpu.p (operandM i s).1)
      refine ⟨_, hx, k.fault.trans (operandM_fault i s), k.image.trans (congrArg Cart.image (operandM_kept i s).2.1), k.nmi, ?_, ?_, ?_, ?_⟩
      · simp only [State.setP, hc]
      · simp only [State.setP, hc]; exact hl
      · simp only [State.setP, hc]; exact hh
      · intro hs
        exact (busWrite_inv ((operandM_inv hs i).withCpu (c := { s.cpu with ea := address i s, modeExtra := me, insnExtra := 0, cycles := spent i s }) hs.cpu) _ _).withCpu
          (inv_of_flags hs.cpu hf.1 hf.2)
  · have hx := exec_implied h s
    obtain ⟨a, x, y, sp, p, pc, ram, ob, hd, hr, hp⟩ := impliedOp_does h (s.start i.cycles)
    rw [hd] at hx
    obtain ⟨h1, h2, _⟩ := cycles_bounds i
    refine ⟨_, hx, rfl, rfl, id, rfl, Nat.add_le_add_left h1 _, Nat.add_le_add_left h2 _, fun hs => ?_⟩
    exact ⟨hp hs.cpu, hs.ppu, hs.apu, hs.cart, hr hs.ram, hs.vram⟩
  · have hx := exec_branch h s
    rw [branchIf_eq] at hx
    refine ⟨_, hx, rfl, rfl, id, rfl, ?_, ?_, fun hs => hs.withCpu hs.cpu⟩
    · simp only; split <;> omega
    · simp only; split <;> (try split) <;> omega
  · obtain ⟨ea, me, hx⟩ := exec_jmp h s
    refine ⟨_, hx, resolved_fault i s, congrArg Cart.image (resolved_kept i s).2.1, id, rfl, hl, hh, fun hs => ?_⟩
    exact (resolved_inv hs i).withCpu hs.cpu
  · have : ∃ a, i = .jsr a := by
      cases i <;> simp only [Instr.mnemonic, reduceCtorEq] at h
      exact ⟨_, rfl⟩
    obtain ⟨a, rfl⟩ := this
    refine ⟨_, exec_jsr a s, rfl, rfl, id, rfl, Nat.add_le_add_left (Nat.le_of_ble_eq_true rfl) _, Nat.add_le_add_left (Nat.le_of_ble_eq_true rfl) _, fun hs => ?_⟩
    exact ⟨hs.cpu, hs.ppu, hs.apu, hs.cart, Mem.write_wf (Mem.write_wf hs.ram (by omega) _) (by omega) _, hs.vram⟩

/-! The step. -/

/-- What fetching keeps: everything but PC, `opcode` and what its bus reads change. -/
structure FetchKeeps (s t : State) : Prop where
  cpu : ∃ pc op, t.cpu = { s.cpu with pc := pc, opcode := op }
  fault : t.fault = s.fault
  cart : t.cart = s.cart
  ram : t.ram = s.ram
  inv : s.Inv → t.Inv

theorem FetchKeeps.trans {s t u : State} (h : FetchKeeps s t) (k : FetchKeeps t u) : FetchKeeps s u := by
  obtain ⟨p1, o1, h1⟩ := h.cpu
  obtain ⟨p2, o2, h2⟩ := k.cpu
  exact ⟨⟨p2, o2, by rw [h2, h1]⟩, k.fault.trans h.fault, k.cart.trans h.cart, k.ram.trans h.ram, fun hs => k.inv (h.inv hs)⟩

theorem FetchKeeps.refl (s : State) : FetchKeeps s s := ⟨⟨_, _, rfl⟩, rfl, rfl, rfl, id⟩

theorem fetch8_cpu (s : State) : (fetch8 s).2.cpu = { s.cpu with pc := s.cpu.pc + 1 } := by
  simp only [fetch8, State.setPc, busRead_cpu]

theorem fetch8_keeps (s : State) : FetchKeeps s (fetch8 s).2 :=
  ⟨⟨_, _, fetch8_cpu s⟩, busRead_fault _ _, busRead_cart _ _, busRead_memRam _ _, fun h => fetch8_inv h⟩

theorem setOpcode_keeps (v : Byte) (s : State) : FetchKeeps s (s.setOpcode v) :=
  ⟨⟨_, _, rfl⟩, rfl, rfl, rfl, fun h => h.withCpu h.cpu⟩

theorem fetchOperand_keeps (f : Form) (s : State) : FetchKeeps s (fetchOperand f s).2 := by
  cases f with
  | one i => exact FetchKeeps.refl s
  | two mk => exact fetch8_keeps s
  | three mk => exact (fetch8_keeps s).trans (fetch8_keeps _)

/-- The instruction half of a step: the fetched instruction's execution, or the fatal condition of an unassigned byte. -/
theorem executeInstruction_does (s : State) :
    (∃ i u t, executeInstruction s = .next t ∧ FetchKeeps s u ∧ exec i u = .next t) ∨
      (form (busRead s.cpu.pc s).1 = none ∧ executeInstruction s =
        .fault (.fatal (.unimplementedOpcode (busRead s.cpu.pc s).1 s.cpu.pc)
          { (fetchOpcode s).2 with fault := some (.unimplementedOpcode (busRead s.cpu.pc s).1 s.cpu.pc) })) := by
  unfold executeInstruction
  simp only
  have h1 : (fetchOpcode s).1 = (busRead s.cpu.pc s).1 := rfl
  cases hf : form (fetchOpcode s).1 with
  | none => exact .inr ⟨by rw [← h1]; exact hf, by simp only [raiseFatal, h1]⟩
  | some f =>
    obtain ⟨t, ht, _⟩ := exec_keeps (fetchOperand f (fetchOpcode s).2).1 (fetchOperand f (fetchOpcode s).2).2
    exact .inl ⟨_, _, t, ht, ((fetch8_keeps s).trans (setOpcode_keeps _ _)).trans (fetchOperand_keeps f _), ht⟩

/-- An interrupt entry's cycles and what it keeps. -/
theorem entry_keeps (savedP : Byte) {vector : Word} (hv : 0x8000 ≤ vector.toNat) (hv' : vector.toNat < 0xFFFF) (s : State)
    {t : State} {n l : Bool} (ht : t = { (enterInterrupt savedP vector s).addCycles 7 with
      cpu := { ((enterInterrupt savedP vector s).addCycles 7).cpu with nmiPending := n, irqLatch := l } }) :
    t.fault = s.fault ∧ t.cart = s.cart ∧ t.cpu.totalCycles = s.cpu.totalCycles ∧ t.cpu.cycles = s.cpu.cycles + 7 ∧
      (s.Inv → t.Inv) := by
  have hi : s.Inv → (enterInterrupt savedP vector s).Inv := fun h => enterInterrupt_inv h savedP hv hv'
  have e := enterInterrupt_eq savedP hv hv' s
  subst ht
  refine ⟨?_, ?_, ?_, ?_, fun hs => ⟨(hi hs).cpu, (hi hs).ppu, (hi hs).apu, (hi hs).cart, (hi hs).ram, (hi hs).vram⟩⟩ <;>
    simp only [State.addCycles, e]

/-- What a step that goes on did: an entry or an instruction, then its device cycles. -/
structure StepKeeps (s u : State) : Prop where
  fault : u.fault = s.fault
  image : u.cart.image = s.cart.image
  total : u.cpu.totalCycles = s.cpu.totalCycles
  low : s.cpu.stallCycles + 2 ≤ u.cpu.cycles
  high : u.cpu.cycles ≤ s.cpu.stallCycles + 7
  inv : s.Inv → u.Inv

theorem step_halted {s : State} {r : Fatal} (h : s.fault = some r) : step s = .fault (.halted r) := by
  simp only [step, machineStep, cpuStep, h]

theorem step_nmi {s : State} (h : s.fault = none) (hn : s.cpu.nmiPending = true) :
    step s = .next (finishStep (nmiEntry (drainStall s))) := by
  have h' : (drainStall s).cpu.nmiPending = true := hn
  simp only [step, machineStep, cpuStep, h, h', if_true]

theorem step_irq {s : State} (h : s.fault = none) (hn : s.cpu.nmiPending = false) (hq : takesIrq s = true) :
    step s = .next (finishStep (irqEntry (drainStall s))) := by
  have h' : (drainStall s).cpu.nmiPending = false := hn
  have h'' : takesIrq (drainStall s) = true := hq
  simp only [step, machineStep, cpuStep, h, h', h'', Bool.false_eq_true, if_true, if_false]

theorem step_instr {s : State} (h : s.fault = none) (hn : s.cpu.nmiPending = false) (hq : takesIrq s = false) :
    step s = match executeInstruction (drainStall s) with
      | .next t => .next (finishStep t)
      | .fault r => .fault r
      | .refused r => .refused r := by
  have h' : (drainStall s).cpu.nmiPending = false := hn
  have h'' : takesIrq (drainStall s) = false := hq
  have hc : cpuStep s = executeInstruction (drainStall s) := by
    simp only [cpuStep, h, h', h'', Bool.false_eq_true, if_false]
  cases he : executeInstruction (drainStall s) <;> simp only [step, machineStep, hc, he]

/-- Everything a step can do. -/
theorem step_does (s : State) :
    (∃ r, s.fault = some r ∧ step s = .fault (.halted r)) ∨
    (∃ u, s.fault = none ∧ step s = .next (finishStep u) ∧ StepKeeps s u) ∨
    (s.fault = none ∧ s.cpu.nmiPending = false ∧ takesIrq s = false ∧ form (busRead s.cpu.pc (drainStall s)).1 = none ∧
      step s = .fault (.fatal (.unimplementedOpcode (busRead s.cpu.pc (drainStall s)).1 s.cpu.pc)
        { (fetchOpcode (drainStall s)).2 with
          fault := some (.unimplementedOpcode (busRead s.cpu.pc (drainStall s)).1 s.cpu.pc) })) := by
  have hd : s.Inv → (drainStall s).Inv := fun h => h.withCpu h.cpu
  cases hf : s.fault with
  | some r => exact .inl ⟨r, rfl, step_halted hf⟩
  | none =>
    right
    have he (u : State) (h1 : u.fault = (drainStall s).fault) (h2 : u.cart = (drainStall s).cart)
        (h3 : u.cpu.totalCycles = (drainStall s).cpu.totalCycles) (h4 : u.cpu.cycles = (drainStall s).cpu.cycles + 7)
        (h5 : (drainStall s).Inv → u.Inv) : StepKeeps s u := by
      refine ⟨h1, congrArg Cart.image h2, h3, ?_, ?_, fun h => h5 (hd h)⟩
      · rw [h4]; exact Nat.add_le_add_left (Nat.le_of_ble_eq_true rfl) _
      · rw [h4]; exact Nat.le_refl _
    cases hn : s.cpu.nmiPending with
    | true =>
      obtain ⟨h1, h2, h3, h4, h5⟩ := entry_keeps (pushedIrq (drainStall s).cpu.p) (vector := 0xFFFA) (by decide) (by decide)
        (drainStall s) (t := nmiEntry (drainStall s)) (n := false) rfl
      exact .inl ⟨_, rfl, step_nmi hf hn, he _ h1 h2 h3 h4 h5⟩
    | false =>
      cases hq : takesIrq s with
      | true =>
        obtain ⟨h1, h2, h3, h4, h5⟩ := entry_keeps (pushedIrq (drainStall s).cpu.p) (vector := 0xFFFE) (by decide) (by decide)
          (drainStall s) (t := irqEntry (drainStall s)) (l := false) rfl
        exact .inl ⟨_, rfl, step_irq hf hn hq, he _ h1 h2 h3 h4 h5⟩
      | false =>
        have hs := step_instr hf hn hq
        rcases executeInstruction_does (drainStall s) with ⟨i, v, t, hx, hk, hi⟩ | ⟨hn', hx⟩
        · left
          obtain ⟨t', ht', k⟩ := exec_keeps i v
          rw [hi] at ht'
          injection ht' with ht'
          subst ht'
          obtain ⟨pc, op, hc⟩ := hk.cpu
          refine ⟨t, rfl, by rw [hs, hx], k.fault.trans hk.fault, k.image.trans (congrArg Cart.image hk.cart), ?_, ?_, ?_,
            fun h => k.inv (hk.inv (hd h))⟩
          · rw [k.total, hc]; rfl
          · have := k.low
            rw [hc] at this
            exact this
          · have := k.high
            rw [hc] at this
            exact this
        · right
          exact ⟨rfl, rfl, rfl, hn', by rw [hs, hx]; rfl⟩

/-- What the end of a step keeps. -/
theorem finishStep_keeps (u : State) : (finishStep u).fault = u.fault ∧ (finishStep u).cart = u.cart ∧ (finishStep u).ram = u.ram ∧
    (finishStep u).cpu.totalCycles = u.cpu.totalCycles + u.cpu.cycles ∧ (finishStep u).cpu.cycles = u.cpu.cycles ∧
    (u.Inv → (finishStep u).Inv) := by
  have k := runDevices_frame u.cpu.cycles { u with cpu := { u.cpu with totalCycles := u.cpu.totalCycles + u.cpu.cycles } }
  obtain ⟨n, l, q, hc⟩ := k.cpu
  refine ⟨k.fault, k.cart, k.ram, ?_, ?_, fun h => runDevices_inv _ (h.withCpu h.cpu)⟩
  · unfold finishStep; rw [hc]
  · unfold finishStep; rw [hc]

end Sys2Proof.Claims
end

