-- ==== Sys2Proof/Laws/Completion.lean ====
section
/-! SUPPORT. From an instruction's closed form to the statements' `CompletesQuietly`, `CompletesStoring` and `CompletesPushing`, and
the arithmetic of the stack pointer. -/

namespace Sys2Proof.Claims

open Sys2Proof.Machine

-- One theorem at a time: several wait on the kernel, and each waiting theorem would hold a thread of its own.
set_option Elab.async false

/-! Forms that store nothing. -/

/-- A read-class instruction whose operation touches registers only completes quietly. -/
theorem completes_read {i : Instr} {op : Byte → State → State} (h : readOp i.mnemonic = some op) (s e : State)
    (hv : ∀ ea me, visible (op (operandM i s).1
      { (operandM i s).2 with cpu := { s.cpu with ea := ea, modeExtra := me, insnExtra := 0, cycles := spent i s } }) = visible e) :
    CompletesQuietly i s e := by
  obtain ⟨ea, me, hx⟩ := exec_read h s
  obtain ⟨h1, h2, h3, h4, h5⟩ := operandM_kept i s
  obtain ⟨a, x, y, p, hd, -, -⟩ := readOp_does h (operandM i s).1
    { (operandM i s).2 with cpu := { s.cpu with ea := ea, modeExtra := me, insnExtra := 0, cycles := spent i s } }
  refine ⟨_, hx, hv ea me, ?_⟩
  rw [hd]
  exact memoryKept_of h1 h2 h3 h4 h5

theorem implied_penalty {i : Instr} {op : State → State} (h : impliedOp i.mnemonic = some op) : i.penalty = false := by
  unfold Instr.penalty
  split <;> simp_all [impliedOp]

theorem implied_spent {i : Instr} {op : State → State} (h : impliedOp i.mnemonic = some op) (s : State) :
    spent i s = s.cpu.cycles + i.cycles := by
  simp [spent, modeCycles, implied_penalty h]

/-- An implied instruction that leaves RAM alone completes quietly. -/
theorem completes_implied {i : Instr} {op : State → State} (h : impliedOp i.mnemonic = some op) (s e : State)
    (hv : visible (op (s.start i.cycles)) = visible e) (hr : (op (s.start i.cycles)).ram = s.ram) : CompletesQuietly i s e := by
  obtain ⟨a, x, y, sp, p, pc, ram, ob, hd, -, -⟩ := impliedOp_does h (s.start i.cycles)
  refine ⟨_, exec_implied h s, hv, ?_⟩
  have hr' : ram = s.ram := by rw [← hr, hd]
  rw [hd]
  exact memoryKept_of hr' rfl rfl rfl rfl

/-! Forms that store. -/

/-- A write shows nothing of the scratch fields. -/
theorem visible_busWrite (a : Word) (v : Byte) {s t : State} (h : visible s = visible t) :
    visible (busWrite a v s) = visible (busWrite a v t) := by
  have e (s : State) : visible (busWrite a v s) = busWrite a v (visible s) := by
    have hv : visible s = s.withRegs { s.cpu with opcode := 0, ea := 0, modeExtra := 0, insnExtra := 0 } := rfl
    rw [hv, busWrite_withRegs]
    obtain ⟨⟨n, l, q, hc⟩, -, -, -⟩ := busWrite_keeps a v s
    simp only [visible, State.withRegs, Cpu.regsOf, hc]
  rw [e, e, h]

/-- A store made from a state with the same memories keeps the bytes outside it. -/
theorem storeKept_of {s r t : State} {ea : Word} {v : Byte} (hr : r.ram = s.ram) (hc : r.cart = s.cart) (hv : r.vram = s.vram)
    (hp : r.ppu.palette = s.ppu.palette) (ho : r.ppu.oam = s.ppu.oam) (hi : r.Inv) (t1 : t.ram = (busWrite ea v r).ram)
    (t2 : t.cart = (busWrite ea v r).cart) (t3 : t.vram = (busWrite ea v r).vram) (t4 : t.ppu = (busWrite ea v r).ppu) :
    StoreKept ea s t := by
  have k := memoryKept_of hr hc hv hp ho
  have touch : ∀ a, touches r ea a = touches s ea a := fun a => by simp only [touches, hc]
  refine ⟨fun a h => ?_, fun h => ?_⟩
  · rw [← k.1 a, ← busWrite_memoryAt hi ea v (by rw [touch]; exact h)]
    exact memoryAt_congr t1 t2 a
  · obtain ⟨h1, h2⟩ := busWrite_ppu h v r
    have e : ∀ a, ppuRead t a = ppuRead (busWrite ea v r) a := fun a => by simp only [ppuRead, t2, t3, t4]
    exact ⟨fun a => (e a).trans ((h1 a).trans (k.2.1 a)), fun j => by rw [t4]; exact (h2 j).trans (k.2.2 j)⟩

/-- A write-class instruction completes with its store. -/
theorem completes_write {i : Instr} {val : Cpu → Byte} (h : storeReg i.mnemonic = some val) (s : State) :
    CompletesStoring i (address i s) s (busWrite (address i s) (val s.cpu) (counted i s (resolved i s))) := by
  obtain ⟨me, hx⟩ := exec_write h s
  obtain ⟨r, hr⟩ : ∃ r, r =
    { resolved i s with cpu := { s.cpu with ea := address i s, modeExtra := me, insnExtra := 0, cycles := spent i s } } := ⟨_, rfl⟩
  rw [← hr] at hx
  obtain ⟨h1, h2, h3, h4, h5⟩ := resolved_kept i s
  refine ⟨_, hx, visible_busWrite _ _ ?_, fun hs => storeKept_of (r := r) (by rw [hr]; exact h1) (by rw [hr]; exact h2)
    (by rw [hr]; exact h3) (by rw [hr]; exact h4) (by rw [hr]; exact h5) ?_ rfl rfl rfl rfl⟩
  · simp only [hr, visible, counted, resolved_cpu]
  · rw [hr]
    exact (resolved_inv hs i).withCpu (c := { s.cpu with ea := address i s, modeExtra := me, insnExtra := 0, cycles := spent i s }) hs.cpu

/-- A read-modify-write instruction on memory completes with its store and its P. -/
theorem completes_modify {i : Instr} {f : Byte → Byte → Byte} {g : Byte → Byte → Byte → Byte} (h : modifyOp i.mnemonic = some (f, g))
    (hm : i.mode ≠ .accumulator) (s : State) :
    CompletesStoring i (address i s) s
      (let w := busWrite (address i s) (f s.cpu.p (operandM i s).1) (counted i s (operandM i s).2)
       { w with cpu := { w.cpu with p := g s.cpu.p (operandM i s).1 (f s.cpu.p (operandM i s).1) } }) := by
  obtain ⟨me, hx⟩ := exec_modify h hm s
  obtain ⟨r, hr⟩ : ∃ r, r =
    { (operandM i s).2 with cpu := { s.cpu with ea := address i s, modeExtra := me, insnExtra := 0, cycles := spent i s } } := ⟨_, rfl⟩
  rw [← hr] at hx
  obtain ⟨h1, h2, h3, h4, h5⟩ := operandM_kept i s
  refine ⟨_, hx, ?_, fun hs => storeKept_of (r := r) (by rw [hr]; exact h1) (by rw [hr]; exact h2) (by rw [hr]; exact h3)
    (by rw [hr]; exact h4) (by rw [hr]; exact h5) ?_ rfl rfl rfl rfl⟩
  · have hw := visible_busWrite (address i s) (f s.cpu.p (operandM i s).1) (s := r) (t := counted i s (operandM i s).2)
      (by simp only [hr, visible, counted, operandM_cpu])
    exact congrArg (fun t : State =>
      { t with cpu := { t.cpu with p := g s.cpu.p (operandM i s).1 (f s.cpu.p (operandM i s).1) } }) hw
  · rw [hr]
    exact (operandM_inv hs i).withCpu (c := { s.cpu with ea := address i s, modeExtra := me, insnExtra := 0, cycles := spent i s }) hs.cpu

/-! Pushes. -/

/-- A RAM with bytes pushed, read outside them. -/
theorem pushed_read (l : List Byte) {m : Mem} {sp : Byte} (h : Mem.wf 2048 m = true) {a : Word} (ha : a.toNat ≤ 0x1FFF)
    (hk : ∀ k < l.length, sameRamByte (stackAddr (sp - BitVec.ofNat 8 k)) a = false) :
    (pushed m sp l).read (a.toNat % 0x800) = m.read (a.toNat % 0x800) := by
  induction l generalizing m sp with
  | nil => rfl
  | cons v l ih =>
    simp only [pushed]
    rw [ih (Mem.write_wf h (by omega) v)]
    · refine Mem.read_write_ne h ?_ v
      have h0 := hk 0 (Nat.succ_pos _)
      simp only [sameRamByte, Bool.and_eq_false_iff, decide_eq_false_iff_not] at h0
      rcases h0 with (h0 | h0) | h0
      · exact absurd (by rw [stackAddr_toNat]; omega) h0
      · exact absurd ha h0
      · intro e
        rw [e, stackAddr_toNat] at h0
        simp at h0
        omega
    · intro k hk'
      have hk1 := hk (k + 1) (Nat.succ_lt_succ hk')
      have e : sp - BitVec.ofNat 8 (k + 1) = sp - 1 - BitVec.ofNat 8 k := by
        rw [BitVec.sub_sub]
        congr 1
        apply BitVec.eq_of_toNat_eq
        simp [BitVec.toNat_add, BitVec.toNat_ofNat]
        omega
      rw [← e]
      exact hk1

/-- Pushes keep the bytes outside them. -/
theorem pushKept_of {s t : State} (hs : s.Inv) (l : List Byte) (hr : t.ram = pushed s.ram s.cpu.s l) (hc : t.cart = s.cart)
    (hv : t.vram = s.vram) (hp : t.ppu = s.ppu) : PushKept l.length s t := by
  refine ⟨fun a h => ?_, fun a => by simp only [ppuRead, hc, hv, hp], fun k => by rw [hp]⟩
  refine memoryAt_of_parts (fun ha => ?_) (fun _ => by rw [hc]) (fun _ _ => by rw [hc]) (by rw [hc])
  rw [hr]
  exact pushed_read l hs.ram ha h

/-! The stack pointer. -/

theorem sp_sub2 : ∀ x : Byte, x - 1 - 1 = x - 2 := by decide +kernel
theorem sp_sub3 : ∀ x : Byte, x - 1 - 1 - 1 = x - 3 := by decide +kernel
theorem sp_add2 : ∀ x : Byte, x + 1 + 1 = x + 2 := by decide +kernel
theorem sp_add3 : ∀ x : Byte, x + 1 + 1 + 1 = x + 3 := by decide +kernel
theorem sp_back : ∀ x : Byte, x - 1 + 1 = x := by decide +kernel
theorem sp_apart1 : ∀ x : Byte, 0x100 + x.toNat ≠ 0x100 + (x - 1).toNat := by decide +kernel
theorem sp_apart2 : ∀ x : Byte, 0x100 + x.toNat ≠ 0x100 + (x - 1 - 1).toNat := by decide +kernel

/-- A word is its two bytes. -/
theorem mkWord_bytes (w : Word) : mkWord (hiByte w) (loByte w) = w := by
  simp only [mkWord, hiByte, loByte]
  exact (BitVec.extractLsb'_append_extractLsb'_eq_extractLsb' (by decide)).trans (by simp)

end Sys2Proof.Claims
end

