-- ==== Sys2Proof/Laws/Idle.lean ====
section
/-! SUPPORT. The idle loop (70_reset_and_hazards R1321): what its fetches read, and where one can lie. -/

namespace Sys2Proof.Claims

open Sys2Proof.Machine

-- One theorem at a time: several wait on the kernel, and each waiting theorem would hold a thread of its own.
set_option Elab.async false

theorem isMemory_congr {s t : State} (h : t.cart = s.cart) (a : Word) : t.isMemory a = s.isMemory a := by simp only [State.isMemory, h]

/-- The three fetches as three reads; PC comes back to where it was. -/
theorem selfJump_eq (s : State) : selfJump s =
    let op := busRead s.cpu.pc s
    let lo := busRead (s.cpu.pc + 1) op.2
    let hi := busRead (s.cpu.pc + 2) lo.2
    (op.1 == 0x4C && mkWord hi.1 lo.1 == s.cpu.pc, hi.2) := by
  have e : s.cpu.pc + 1 + 1 = s.cpu.pc + 2 := by rw [BitVec.add_assoc]; rfl
  simp only [selfJump, fetch8, State.setPc, busRead_cpu, busRead_withCpu, e]
  refine Prod.ext rfl ?_
  have h : (busRead (s.cpu.pc + 2) (busRead (s.cpu.pc + 1) (busRead s.cpu.pc s).2).2).2.cpu = s.cpu := by simp only [busRead_cpu]
  generalize (busRead (s.cpu.pc + 2) (busRead (s.cpu.pc + 1) (busRead s.cpu.pc s).2).2).2 = t at h
  obtain ⟨cpu, ppu, apu, cart, pads, ram, vram, ob, fault, host⟩ := t
  simp only at h
  subst h
  rfl

@[simp] theorem hiByte_toNat (w : Word) : (hiByte w).toNat = w.toNat / 256 := by
  have := w.isLt
  simp only [hiByte, BitVec.extractLsb'_toNat, Nat.shiftRight_eq_div_pow]
  omega

@[simp] theorem loByte_toNat (w : Word) : (loByte w).toNat = w.toNat % 256 := by
  simp only [loByte, BitVec.extractLsb'_toNat, Nat.shiftRight_zero]

@[simp] theorem mkWord_toNat (hi lo : Byte) : (mkWord hi lo).toNat = hi.toNat * 256 + lo.toNat := by
  simp only [mkWord, BitVec.toNat_append]
  rw [← Nat.shiftLeft_add_eq_or_of_lt lo.isLt, Nat.shiftLeft_eq]

/-- A word is its two bytes. -/
theorem mkWord_eq_iff (hi lo : Byte) (w : Word) : mkWord hi lo = w ↔ hi = hiByte w ∧ lo = loByte w := by
  have h := hi.isLt
  have l := lo.isLt
  simp only [← BitVec.toNat_inj, mkWord_toNat, hiByte_toNat, loByte_toNat]
  omega

/-- What a jump to itself reads: the opcode, then PC's low and high byte. -/
theorem selfJump_iff (s : State) : (selfJump s).1 = true ↔
    (busRead s.cpu.pc s).1 = 0x4C ∧ (busRead (s.cpu.pc + 1) (busRead s.cpu.pc s).2).1 = loByte s.cpu.pc ∧
      (busRead (s.cpu.pc + 2) (busRead (s.cpu.pc + 1) (busRead s.cpu.pc s).2).2).1 = hiByte s.cpu.pc := by
  rw [selfJump_eq]
  simp only [Bool.and_eq_true, beq_iff_eq, mkWord_eq_iff]
  tauto

/-- Of the CPU the idle loop reads PC only. -/
theorem atIdleLoop_withCpu (s : State) (c : Cpu) (h : c.pc = s.cpu.pc) : State.atIdleLoop { s with cpu := c } = s.atIdleLoop := by
  simp only [State.atIdleLoop, selfJump_eq, busRead_withCpu, h, busRead_cpu]

/-- In memory a jump to itself is its three bytes, and its fetches change openBus only. -/
theorem selfJump_memory {s : State} (m0 : s.isMemory s.cpu.pc = true) (m1 : s.isMemory (s.cpu.pc + 1) = true)
    (m2 : s.isMemory (s.cpu.pc + 2) = true) :
    ((selfJump s).1 = true ↔ memoryAt s s.cpu.pc = some 0x4C ∧ memoryAt s (s.cpu.pc + 1) = some (loByte s.cpu.pc) ∧
      memoryAt s (s.cpu.pc + 2) = some (hiByte s.cpu.pc)) ∧ ∃ v, (selfJump s).2 = s.setOpenBus v := by
  have key (t : State) (hr : t.ram = s.ram) (hc : t.cart = s.cart) (a : Word) (m : s.isMemory a = true) :
      ∃ v, memoryAt s a = some v ∧ busRead a t = (v, t.setOpenBus v) := by
    obtain ⟨v, hv, hb⟩ := busRead_memory (s := t) (a := a) (by rw [isMemory_congr hc]; exact m)
    exact ⟨v, by rw [← memoryAt_congr hr hc]; exact hv, hb⟩
  obtain ⟨v0, h0, b0⟩ := key s rfl rfl _ m0
  obtain ⟨v1, h1, b1⟩ := key (s.setOpenBus v0) rfl rfl _ m1
  obtain ⟨v2, h2, b2⟩ := key ((s.setOpenBus v0).setOpenBus v1) rfl rfl _ m2
  rw [selfJump_iff, selfJump_eq, h0, h1, h2, b0]
  simp only [b1, b2, Option.some.injEq]
  exact ⟨trivial, v2, rfl⟩

/-- In memory the second fetch of an idle loop reads what the first did. -/
theorem atIdleLoop_memory {s : State} (m0 : s.isMemory s.cpu.pc = true) (m1 : s.isMemory (s.cpu.pc + 1) = true)
    (m2 : s.isMemory (s.cpu.pc + 2) = true) : s.atIdleLoop = (selfJump s).1 := by
  obtain ⟨h, v, hv⟩ := selfJump_memory m0 m1 m2
  have h' := (selfJump_memory (s := s.setOpenBus v) m0 m1 m2).1
  simp only [memoryAt_congr (s := s) (t := s.setOpenBus v) rfl rfl] at h'
  rw [Bool.eq_iff_iff, State.atIdleLoop, Bool.and_eq_true, hv, h']
  exact ⟨And.left, fun x => ⟨x, h.1 x⟩⟩

/-- What the two fetches of an idle loop say, read by read. -/
theorem atIdleLoop_reads {s : State} (h : s.atIdleLoop = true) :
    (busRead s.cpu.pc s).1 = 0x4C ∧ (busRead (s.cpu.pc + 1) (busRead s.cpu.pc s).2).1 = loByte s.cpu.pc ∧
      (busRead (s.cpu.pc + 2) (busRead (s.cpu.pc + 1) (busRead s.cpu.pc s).2).2).1 = hiByte s.cpu.pc ∧
      ∃ t : State, t.openBus = hiByte s.cpu.pc ∧ t.cart = s.cart ∧ (busRead s.cpu.pc t).1 = 0x4C := by
  simp only [State.atIdleLoop, Bool.and_eq_true] at h
  obtain ⟨h0, h1⟩ := h
  rw [selfJump_iff] at h0 h1
  have hc : (selfJump s).2.cpu = s.cpu := by rw [selfJump_eq]; simp only [busRead_cpu]
  rw [hc] at h1
  refine ⟨h0.1, h0.2.1, h0.2.2, (selfJump s).2, ?_, ?_, h1.1⟩ <;> rw [selfJump_eq]
  · simp only [busRead_openBus]; exact h0.2.2
  · simp only [busRead_cart]

/-- Where an idle loop can lie: its three bytes in memory, or at 0x4C4C on open bus. -/
theorem atIdleLoop_place {s : State} (h : s.atIdleLoop = true) :
    (s.isMemory s.cpu.pc = true ∧ s.isMemory (s.cpu.pc + 1) = true ∧ s.isMemory (s.cpu.pc + 2) = true) ∨
      (s.cpu.pc = 0x4C4C ∧ s.openBus = 0x4C) := by
  obtain ⟨r0, r1, r2, t, tb, tc, tr⟩ := atIdleLoop_reads h
  have lt := s.cpu.pc.isLt
  have e1 : (s.cpu.pc + 1).toNat = (s.cpu.pc.toNat + 1) % 65536 := by rw [BitVec.toNat_add]; rfl
  have e2 : (s.cpu.pc + 2).toNat = (s.cpu.pc.toNat + 2) % 65536 := by rw [BitVec.toNat_add]; rfl
  have hh : (hiByte s.cpu.pc).toNat = s.cpu.pc.toNat / 256 := hiByte_toNat _
  have hl : (loByte s.cpu.pc).toNat = s.cpu.pc.toNat % 256 := loByte_toNat _
  have no (u : State) (k : Nat) (e : (busRead s.cpu.pc u).1 = u.openBus) (hk : u.openBus.toNat = k)
      (hu : (busRead s.cpu.pc u).1 = 0x4C) : k = 76 := by rw [← hk, ← e, hu]; rfl
  have tn : t.openBus.toNat = s.cpu.pc.toNat / 256 := by rw [tb, hh]
  by_cases c1 : s.cpu.pc.toNat ≤ 0x1FFF
  · left
    by_cases c2 : s.cpu.pc.toNat ≤ 0x1FFD
    · simp only [State.isMemory, e1, e2, Bool.or_eq_true, decide_eq_true_eq]
      omega
    · exfalso
      by_cases c3 : s.cpu.pc.toNat = 0x1FFF
      · rw [busRead_writeOnlyPort (a := s.cpu.pc + 1) (by omega) (by omega) (by omega)] at r1
        simp only [busRead_openBus, r0] at r1
        rw [← r1] at hl
        have : (0x4C : Byte).toNat = 76 := rfl
        omega
      · rw [busRead_writeOnlyPort (a := s.cpu.pc + 2) (by omega) (by omega) (by omega)] at r2
        simp only [busRead_openBus] at r2
        rw [r1] at r2
        rw [← r2, hl] at hh
        omega
  by_cases c4 : 0x8000 ≤ s.cpu.pc.toNat
  · left
    simp only [State.isMemory, e1, e2, Bool.or_eq_true, decide_eq_true_eq]
    omega
  by_cases c5 : 0x6000 ≤ s.cpu.pc.toNat
  · by_cases c6 : s.cart.prgRamPresent = true
    · left
      simp only [State.isMemory, e1, e2, Bool.or_eq_true, decide_eq_true_eq, Bool.and_eq_true, c6, and_true]
      omega
    · exfalso
      have := no t _ (by rw [busRead_noPrgRam c5 (by omega) (by rw [tc]; simpa using c6)]) tn tr
      omega
  by_cases c7 : 0x4018 ≤ s.cpu.pc.toNat
  · right
    have k0 := no t _ (by rw [busRead_unmapped c7 (by omega)]) tn tr
    rw [busRead_unmapped c7 (by omega)] at r0 r1
    rw [busRead_unmapped (by omega) (by omega)] at r1
    have k1 : s.openBus = loByte s.cpu.pc := r1
    have k2 : s.openBus = 0x4C := r0
    refine ⟨BitVec.eq_of_toNat_eq ?_, k2⟩
    rw [← k1, k2] at hl
    have : (0x4C : Byte).toNat = 76 := rfl
    have : (0x4C4C : Word).toNat = 19532 := rfl
    omega
  exfalso
  by_cases c8 : 0x4000 ≤ s.cpu.pc.toNat
  · by_cases c9 : s.cpu.pc.toNat ≤ 0x4014
    · have := no t _ (by rw [busRead_writeOnly c8 c9]) tn tr
      omega
    · have hp : s.cpu.pc = 0x4015 ∨ s.cpu.pc = 0x4016 ∨ s.cpu.pc = 0x4017 := by
        simp only [← BitVec.toNat_inj]
        have : (0x4015 : Word).toNat = 16405 ∧ (0x4016 : Word).toNat = 16406 ∧ (0x4017 : Word).toNat = 16407 := ⟨rfl, rfl, rfl⟩
        omega
      have pad (ob x : Byte) : ((ob &&& 0xE0) ||| (x &&& 1)).getLsbD 2 = false := by simp
      have bit (x y : Byte) (e : x = y) : x.getLsbD 2 = y.getLsbD 2 := by rw [e]
      rcases hp with hp | hp | hp <;> rw [hp] at r0 r1
      · exact absurd ((pad _ _).symm.trans (bit _ _ r1)) (by decide)
      · exact absurd ((pad _ _).symm.trans (bit _ _ r0)) (by decide)
      · exact absurd ((pad _ _).symm.trans (bit _ _ r0)) (by decide)
  have c9 : s.cpu.pc.toNat ≤ 0x3FFF := by omega
  have c10 : 0x2000 ≤ s.cpu.pc.toNat := by omega
  by_cases k : s.cpu.pc.toNat % 8 ≠ 2 ∧ s.cpu.pc.toNat % 8 ≠ 4 ∧ s.cpu.pc.toNat % 8 ≠ 7
  · have := no t _ (by rw [busRead_writeOnlyPort c10 c9 k]) tn tr
    omega
  have ob (u : State) : (busRead (s.cpu.pc + 1) u) = (u.openBus, u) := by
    by_cases l : s.cpu.pc.toNat = 0x3FFF
    · exact busRead_writeOnly (by omega) (by omega) u
    · exact busRead_writeOnlyPort (by omega) (by omega) (by omega) u
  rw [ob] at r1 r2
  simp only [busRead_openBus, r0] at r1
  rw [← r1] at hl
  have v : (0x4C : Byte).toNat = 76 := rfl
  rw [busRead_writeOnlyPort (a := s.cpu.pc + 2) (by omega) (by omega) (by omega)] at r2
  simp only [busRead_openBus, r0] at r2
  rw [← r2] at hh
  omega

end Sys2Proof.Claims
end

