-- ==== Sys2Proof/Laws/PerInstr.lean ====
section
/-! SUPPORT. The statements made instruction by instruction, and one lemma for each constructor: here the family Encoding, about the
instruction as syntax (30_encoding R300, R301). -/

namespace Sys2Proof.Laws.Encoding

/-- The operand fits its field, the words are as many bytes as the mode's length says, and their first byte is an assigned opcode
(30_encoding R301, R305). -/
def Statement (i : Instr) : Prop :=
  i.wellFormed = true ∧ (encode i).length = i.length ∧ (form ((encode i).headD 0)).isSome = true

/-- What a constructor's lemma needs: its words, and what their first byte selects. -/
theorem statement_of_words {i : Instr} (op : Byte) {rest : List Byte} (hw : i.wellFormed = true) (he : encode i = op :: rest)
    (hl : rest.length + 1 = i.length) (hf : (form op).isSome = true) : Statement i :=
  ⟨hw, by rw [he]; exact hl, by rw [he]; exact hf⟩

theorem ldaIzx (z : Byte) : Statement (.ldaIzx z) := statement_of_words 0xA1 (decide_eq_true z.isLt) rfl rfl rfl
theorem ldaZp (z : Byte) : Statement (.ldaZp z) := statement_of_words 0xA5 (decide_eq_true z.isLt) rfl rfl rfl
theorem ldaImm (v : Byte) : Statement (.ldaImm v) := statement_of_words 0xA9 (decide_eq_true v.isLt) rfl rfl rfl
theorem ldaAbs (a : Word) : Statement (.ldaAbs a) := statement_of_words 0xAD (decide_eq_true a.isLt) rfl rfl rfl
theorem ldaIzy (z : Byte) : Statement (.ldaIzy z) := statement_of_words 0xB1 (decide_eq_true z.isLt) rfl rfl rfl
theorem ldaZpx (z : Byte) : Statement (.ldaZpx z) := statement_of_words 0xB5 (decide_eq_true z.isLt) rfl rfl rfl
theorem ldaAby (a : Word) : Statement (.ldaAby a) := statement_of_words 0xB9 (decide_eq_true a.isLt) rfl rfl rfl
theorem ldaAbx (a : Word) : Statement (.ldaAbx a) := statement_of_words 0xBD (decide_eq_true a.isLt) rfl rfl rfl
theorem ldxImm (v : Byte) : Statement (.ldxImm v) := statement_of_words 0xA2 (decide_eq_true v.isLt) rfl rfl rfl
theorem ldxZp (z : Byte) : Statement (.ldxZp z) := statement_of_words 0xA6 (decide_eq_true z.isLt) rfl rfl rfl
theorem ldxAbs (a : Word) : Statement (.ldxAbs a) := statement_of_words 0xAE (decide_eq_true a.isLt) rfl rfl rfl
theorem ldxZpy (z : Byte) : Statement (.ldxZpy z) := statement_of_words 0xB6 (decide_eq_true z.isLt) rfl rfl rfl
theorem ldxAby (a : Word) : Statement (.ldxAby a) := statement_of_words 0xBE (decide_eq_true a.isLt) rfl rfl rfl
theorem ldyImm (v : Byte) : Statement (.ldyImm v) := statement_of_words 0xA0 (decide_eq_true v.isLt) rfl rfl rfl
theorem ldyZp (z : Byte) : Statement (.ldyZp z) := statement_of_words 0xA4 (decide_eq_true z.isLt) rfl rfl rfl
theorem ldyAbs (a : Word) : Statement (.ldyAbs a) := statement_of_words 0xAC (decide_eq_true a.isLt) rfl rfl rfl
theorem ldyZpx (z : Byte) : Statement (.ldyZpx z) := statement_of_words 0xB4 (decide_eq_true z.isLt) rfl rfl rfl
theorem ldyAbx (a : Word) : Statement (.ldyAbx a) := statement_of_words 0xBC (decide_eq_true a.isLt) rfl rfl rfl
theorem staIzx (z : Byte) : Statement (.staIzx z) := statement_of_words 0x81 (decide_eq_true z.isLt) rfl rfl rfl
theorem staZp (z : Byte) : Statement (.staZp z) := statement_of_words 0x85 (decide_eq_true z.isLt) rfl rfl rfl
theorem staAbs (a : Word) : Statement (.staAbs a) := statement_of_words 0x8D (decide_eq_true a.isLt) rfl rfl rfl
theorem staIzy (z : Byte) : Statement (.staIzy z) := statement_of_words 0x91 (decide_eq_true z.isLt) rfl rfl rfl
theorem staZpx (z : Byte) : Statement (.staZpx z) := statement_of_words 0x95 (decide_eq_true z.isLt) rfl rfl rfl
theorem staAby (a : Word) : Statement (.staAby a) := statement_of_words 0x99 (decide_eq_true a.isLt) rfl rfl rfl
theorem staAbx (a : Word) : Statement (.staAbx a) := statement_of_words 0x9D (decide_eq_true a.isLt) rfl rfl rfl
theorem stxZp (z : Byte) : Statement (.stxZp z) := statement_of_words 0x86 (decide_eq_true z.isLt) rfl rfl rfl
theorem stxAbs (a : Word) : Statement (.stxAbs a) := statement_of_words 0x8E (decide_eq_true a.isLt) rfl rfl rfl
theorem stxZpy (z : Byte) : Statement (.stxZpy z) := statement_of_words 0x96 (decide_eq_true z.isLt) rfl rfl rfl
theorem styZp (z : Byte) : Statement (.styZp z) := statement_of_words 0x84 (decide_eq_true z.isLt) rfl rfl rfl
theorem styAbs (a : Word) : Statement (.styAbs a) := statement_of_words 0x8C (decide_eq_true a.isLt) rfl rfl rfl
theorem styZpx (z : Byte) : Statement (.styZpx z) := statement_of_words 0x94 (decide_eq_true z.isLt) rfl rfl rfl
theorem tax : Statement .tax := statement_of_words 0xAA (by decide) rfl rfl rfl
theorem tay : Statement .tay := statement_of_words 0xA8 (by decide) rfl rfl rfl
theorem txa : Statement .txa := statement_of_words 0x8A (by decide) rfl rfl rfl
theorem tya : Statement .tya := statement_of_words 0x98 (by decide) rfl rfl rfl
theorem tsx : Statement .tsx := statement_of_words 0xBA (by decide) rfl rfl rfl
theorem txs : Statement .txs := statement_of_words 0x9A (by decide) rfl rfl rfl
theorem pha : Statement .pha := statement_of_words 0x48 (by decide) rfl rfl rfl
theorem php : Statement .php := statement_of_words 0x08 (by decide) rfl rfl rfl
theorem pla : Statement .pla := statement_of_words 0x68 (by decide) rfl rfl rfl
theorem plp : Statement .plp := statement_of_words 0x28 (by decide) rfl rfl rfl
theorem andIzx (z : Byte) : Statement (.andIzx z) := statement_of_words 0x21 (decide_eq_true z.isLt) rfl rfl rfl
theorem andZp (z : Byte) : Statement (.andZp z) := statement_of_words 0x25 (decide_eq_true z.isLt) rfl rfl rfl
theorem andImm (v : Byte) : Statement (.andImm v) := statement_of_words 0x29 (decide_eq_true v.isLt) rfl rfl rfl
theorem andAbs (a : Word) : Statement (.andAbs a) := statement_of_words 0x2D (decide_eq_true a.isLt) rfl rfl rfl
theorem andIzy (z : Byte) : Statement (.andIzy z) := statement_of_words 0x31 (decide_eq_true z.isLt) rfl rfl rfl
theorem andZpx (z : Byte) : Statement (.andZpx z) := statement_of_words 0x35 (decide_eq_true z.isLt) rfl rfl rfl
theorem andAby (a : Word) : Statement (.andAby a) := statement_of_words 0x39 (decide_eq_true a.isLt) rfl rfl rfl
theorem andAbx (a : Word) : Statement (.andAbx a) := statement_of_words 0x3D (decide_eq_true a.isLt) rfl rfl rfl
theorem oraIzx (z : Byte) : Statement (.oraIzx z) := statement_of_words 0x01 (decide_eq_true z.isLt) rfl rfl rfl
theorem oraZp (z : Byte) : Statement (.oraZp z) := statement_of_words 0x05 (decide_eq_true z.isLt) rfl rfl rfl
theorem oraImm (v : Byte) : Statement (.oraImm v) := statement_of_words 0x09 (decide_eq_true v.isLt) rfl rfl rfl
theorem oraAbs (a : Word) : Statement (.oraAbs a) := statement_of_words 0x0D (decide_eq_true a.isLt) rfl rfl rfl
theorem oraIzy (z : Byte) : Statement (.oraIzy z) := statement_of_words 0x11 (decide_eq_true z.isLt) rfl rfl rfl
theorem oraZpx (z : Byte) : Statement (.oraZpx z) := statement_of_words 0x15 (decide_eq_true z.isLt) rfl rfl rfl
theorem oraAby (a : Word) : Statement (.oraAby a) := statement_of_words 0x19 (decide_eq_true a.isLt) rfl rfl rfl
theorem oraAbx (a : Word) : Statement (.oraAbx a) := statement_of_words 0x1D (decide_eq_true a.isLt) rfl rfl rfl
theorem eorIzx (z : Byte) : Statement (.eorIzx z) := statement_of_words 0x41 (decide_eq_true z.isLt) rfl rfl rfl
theorem eorZp (z : Byte) : Statement (.eorZp z) := statement_of_words 0x45 (decide_eq_true z.isLt) rfl rfl rfl
theorem eorImm (v : Byte) : Statement (.eorImm v) := statement_of_words 0x49 (decide_eq_true v.isLt) rfl rfl rfl
theorem eorAbs (a : Word) : Statement (.eorAbs a) := statement_of_words 0x4D (decide_eq_true a.isLt) rfl rfl rfl
theorem eorIzy (z : Byte) : Statement (.eorIzy z) := statement_of_words 0x51 (decide_eq_true z.isLt) rfl rfl rfl
theorem eorZpx (z : Byte) : Statement (.eorZpx z) := statement_of_words 0x55 (decide_eq_true z.isLt) rfl rfl rfl
theorem eorAby (a : Word) : Statement (.eorAby a) := statement_of_words 0x59 (decide_eq_true a.isLt) rfl rfl rfl
theorem eorAbx (a : Word) : Statement (.eorAbx a) := statement_of_words 0x5D (decide_eq_true a.isLt) rfl rfl rfl
theorem bitZp (z : Byte) : Statement (.bitZp z) := statement_of_words 0x24 (decide_eq_true z.isLt) rfl rfl rfl
theorem bitAbs (a : Word) : Statement (.bitAbs a) := statement_of_words 0x2C (decide_eq_true a.isLt) rfl rfl rfl
theorem adcIzx (z : Byte) : Statement (.adcIzx z) := statement_of_words 0x61 (decide_eq_true z.isLt) rfl rfl rfl
theorem adcZp (z : Byte) : Statement (.adcZp z) := statement_of_words 0x65 (decide_eq_true z.isLt) rfl rfl rfl
theorem adcImm (v : Byte) : Statement (.adcImm v) := statement_of_words 0x69 (decide_eq_true v.isLt) rfl rfl rfl
theorem adcAbs (a : Word) : Statement (.adcAbs a) := statement_of_words 0x6D (decide_eq_true a.isLt) rfl rfl rfl
theorem adcIzy (z : Byte) : Statement (.adcIzy z) := statement_of_words 0x71 (decide_eq_true z.isLt) rfl rfl rfl
theorem adcZpx (z : Byte) : Statement (.adcZpx z) := statement_of_words 0x75 (decide_eq_true z.isLt) rfl rfl rfl
theorem adcAby (a : Word) : Statement (.adcAby a) := statement_of_words 0x79 (decide_eq_true a.isLt) rfl rfl rfl
theorem adcAbx (a : Word) : Statement (.adcAbx a) := statement_of_words 0x7D (decide_eq_true a.isLt) rfl rfl rfl
theorem sbcIzx (z : Byte) : Statement (.sbcIzx z) := statement_of_words 0xE1 (decide_eq_true z.isLt) rfl rfl rfl
theorem sbcZp (z : Byte) : Statement (.sbcZp z) := statement_of_words 0xE5 (decide_eq_true z.isLt) rfl rfl rfl
theorem sbcImm (v : Byte) : Statement (.sbcImm v) := statement_of_words 0xE9 (decide_eq_true v.isLt) rfl rfl rfl
theorem sbcAbs (a : Word) : Statement (.sbcAbs a) := statement_of_words 0xED (decide_eq_true a.isLt) rfl rfl rfl
theorem sbcIzy (z : Byte) : Statement (.sbcIzy z) := statement_of_words 0xF1 (decide_eq_true z.isLt) rfl rfl rfl
theorem sbcZpx (z : Byte) : Statement (.sbcZpx z) := statement_of_words 0xF5 (decide_eq_true z.isLt) rfl rfl rfl
theorem sbcAby (a : Word) : Statement (.sbcAby a) := statement_of_words 0xF9 (decide_eq_true a.isLt) rfl rfl rfl
theorem sbcAbx (a : Word) : Statement (.sbcAbx a) := statement_of_words 0xFD (decide_eq_true a.isLt) rfl rfl rfl
theorem cmpIzx (z : Byte) : Statement (.cmpIzx z) := statement_of_words 0xC1 (decide_eq_true z.isLt) rfl rfl rfl
theorem cmpZp (z : Byte) : Statement (.cmpZp z) := statement_of_words 0xC5 (decide_eq_true z.isLt) rfl rfl rfl
theorem cmpImm (v : Byte) : Statement (.cmpImm v) := statement_of_words 0xC9 (decide_eq_true v.isLt) rfl rfl rfl
theorem cmpAbs (a : Word) : Statement (.cmpAbs a) := statement_of_words 0xCD (decide_eq_true a.isLt) rfl rfl rfl
theorem cmpIzy (z : Byte) : Statement (.cmpIzy z) := statement_of_words 0xD1 (decide_eq_true z.isLt) rfl rfl rfl
theorem cmpZpx (z : Byte) : Statement (.cmpZpx z) := statement_of_words 0xD5 (decide_eq_true z.isLt) rfl rfl rfl
theorem cmpAby (a : Word) : Statement (.cmpAby a) := statement_of_words 0xD9 (decide_eq_true a.isLt) rfl rfl rfl
theorem cmpAbx (a : Word) : Statement (.cmpAbx a) := statement_of_words 0xDD (decide_eq_true a.isLt) rfl rfl rfl
theorem cpxImm (v : Byte) : Statement (.cpxImm v) := statement_of_words 0xE0 (decide_eq_true v.isLt) rfl rfl rfl
theorem cpxZp (z : Byte) : Statement (.cpxZp z) := statement_of_words 0xE4 (decide_eq_true z.isLt) rfl rfl rfl
theorem cpxAbs (a : Word) : Statement (.cpxAbs a) := statement_of_words 0xEC (decide_eq_true a.isLt) rfl rfl rfl
theorem cpyImm (v : Byte) : Statement (.cpyImm v) := statement_of_words 0xC0 (decide_eq_true v.isLt) rfl rfl rfl
theorem cpyZp (z : Byte) : Statement (.cpyZp z) := statement_of_words 0xC4 (decide_eq_true z.isLt) rfl rfl rfl
theorem cpyAbs (a : Word) : Statement (.cpyAbs a) := statement_of_words 0xCC (decide_eq_true a.isLt) rfl rfl rfl
theorem incZp (z : Byte) : Statement (.incZp z) := statement_of_words 0xE6 (decide_eq_true z.isLt) rfl rfl rfl
theorem incAbs (a : Word) : Statement (.incAbs a) := statement_of_words 0xEE (decide_eq_true a.isLt) rfl rfl rfl
theorem incZpx (z : Byte) : Statement (.incZpx z) := statement_of_words 0xF6 (decide_eq_true z.isLt) rfl rfl rfl
theorem incAbx (a : Word) : Statement (.incAbx a) := statement_of_words 0xFE (decide_eq_true a.isLt) rfl rfl rfl
theorem decZp (z : Byte) : Statement (.decZp z) := statement_of_words 0xC6 (decide_eq_true z.isLt) rfl rfl rfl
theorem decAbs (a : Word) : Statement (.decAbs a) := statement_of_words 0xCE (decide_eq_true a.isLt) rfl rfl rfl
theorem decZpx (z : Byte) : Statement (.decZpx z) := statement_of_words 0xD6 (decide_eq_true z.isLt) rfl rfl rfl
theorem decAbx (a : Word) : Statement (.decAbx a) := statement_of_words 0xDE (decide_eq_true a.isLt) rfl rfl rfl
theorem inx : Statement .inx := statement_of_words 0xE8 (by decide) rfl rfl rfl
theorem iny : Statement .iny := statement_of_words 0xC8 (by decide) rfl rfl rfl
theorem dex : Statement .dex := statement_of_words 0xCA (by decide) rfl rfl rfl
theorem dey : Statement .dey := statement_of_words 0x88 (by decide) rfl rfl rfl
theorem aslZp (z : Byte) : Statement (.aslZp z) := statement_of_words 0x06 (decide_eq_true z.isLt) rfl rfl rfl
theorem aslAcc : Statement .aslAcc := statement_of_words 0x0A (by decide) rfl rfl rfl
theorem aslAbs (a : Word) : Statement (.aslAbs a) := statement_of_words 0x0E (decide_eq_true a.isLt) rfl rfl rfl
theorem aslZpx (z : Byte) : Statement (.aslZpx z) := statement_of_words 0x16 (decide_eq_true z.isLt) rfl rfl rfl
theorem aslAbx (a : Word) : Statement (.aslAbx a) := statement_of_words 0x1E (decide_eq_true a.isLt) rfl rfl rfl
theorem lsrZp (z : Byte) : Statement (.lsrZp z) := statement_of_words 0x46 (decide_eq_true z.isLt) rfl rfl rfl
theorem lsrAcc : Statement .lsrAcc := statement_of_words 0x4A (by decide) rfl rfl rfl
theorem lsrAbs (a : Word) : Statement (.lsrAbs a) := statement_of_words 0x4E (decide_eq_true a.isLt) rfl rfl rfl
theorem lsrZpx (z : Byte) : Statement (.lsrZpx z) := statement_of_words 0x56 (decide_eq_true z.isLt) rfl rfl rfl
theorem lsrAbx (a : Word) : Statement (.lsrAbx a) := statement_of_words 0x5E (decide_eq_true a.isLt) rfl rfl rfl
theorem rolZp (z : Byte) : Statement (.rolZp z) := statement_of_words 0x26 (decide_eq_true z.isLt) rfl rfl rfl
theorem rolAcc : Statement .rolAcc := statement_of_words 0x2A (by decide) rfl rfl rfl
theorem rolAbs (a : Word) : Statement (.rolAbs a) := statement_of_words 0x2E (decide_eq_true a.isLt) rfl rfl rfl
theorem rolZpx (z : Byte) : Statement (.rolZpx z) := statement_of_words 0x36 (decide_eq_true z.isLt) rfl rfl rfl
theorem rolAbx (a : Word) : Statement (.rolAbx a) := statement_of_words 0x3E (decide_eq_true a.isLt) rfl rfl rfl
theorem rorZp (z : Byte) : Statement (.rorZp z) := statement_of_words 0x66 (decide_eq_true z.isLt) rfl rfl rfl
theorem rorAcc : Statement .rorAcc := statement_of_words 0x6A (by decide) rfl rfl rfl
theorem rorAbs (a : Word) : Statement (.rorAbs a) := statement_of_words 0x6E (decide_eq_true a.isLt) rfl rfl rfl
theorem rorZpx (z : Byte) : Statement (.rorZpx z) := statement_of_words 0x76 (decide_eq_true z.isLt) rfl rfl rfl
theorem rorAbx (a : Word) : Statement (.rorAbx a) := statement_of_words 0x7E (decide_eq_true a.isLt) rfl rfl rfl
theorem jmpAbs (a : Word) : Statement (.jmpAbs a) := statement_of_words 0x4C (decide_eq_true a.isLt) rfl rfl rfl
theorem jmpInd (a : Word) : Statement (.jmpInd a) := statement_of_words 0x6C (decide_eq_true a.isLt) rfl rfl rfl
theorem jsr (a : Word) : Statement (.jsr a) := statement_of_words 0x20 (decide_eq_true a.isLt) rfl rfl rfl
theorem rts : Statement .rts := statement_of_words 0x60 (by decide) rfl rfl rfl
theorem bcc (d : Byte) : Statement (.bcc d) := statement_of_words 0x90 (decide_eq_true d.isLt) rfl rfl rfl
theorem bcs (d : Byte) : Statement (.bcs d) := statement_of_words 0xB0 (decide_eq_true d.isLt) rfl rfl rfl
theorem beq (d : Byte) : Statement (.beq d) := statement_of_words 0xF0 (decide_eq_true d.isLt) rfl rfl rfl
theorem bne (d : Byte) : Statement (.bne d) := statement_of_words 0xD0 (decide_eq_true d.isLt) rfl rfl rfl
theorem bmi (d : Byte) : Statement (.bmi d) := statement_of_words 0x30 (decide_eq_true d.isLt) rfl rfl rfl
theorem bpl (d : Byte) : Statement (.bpl d) := statement_of_words 0x10 (decide_eq_true d.isLt) rfl rfl rfl
theorem bvc (d : Byte) : Statement (.bvc d) := statement_of_words 0x50 (decide_eq_true d.isLt) rfl rfl rfl
theorem bvs (d : Byte) : Statement (.bvs d) := statement_of_words 0x70 (decide_eq_true d.isLt) rfl rfl rfl
theorem brk : Statement .brk := statement_of_words 0x00 (by decide) rfl rfl rfl
theorem rti : Statement .rti := statement_of_words 0x40 (by decide) rfl rfl rfl
theorem nop : Statement .nop := statement_of_words 0xEA (by decide) rfl rfl rfl
theorem clc : Statement .clc := statement_of_words 0x18 (by decide) rfl rfl rfl
theorem sec : Statement .sec := statement_of_words 0x38 (by decide) rfl rfl rfl
theorem cli : Statement .cli := statement_of_words 0x58 (by decide) rfl rfl rfl
theorem sei : Statement .sei := statement_of_words 0x78 (by decide) rfl rfl rfl
theorem cld : Statement .cld := statement_of_words 0xD8 (by decide) rfl rfl rfl
theorem sed : Statement .sed := statement_of_words 0xF8 (by decide) rfl rfl rfl
theorem clv : Statement .clv := statement_of_words 0xB8 (by decide) rfl rfl rfl

end Sys2Proof.Laws.Encoding
end

