-- ==== Sys2Proof/Laws/PpuSpace.lean ====
section
/-! SUPPORT. The PPU address space by its homes: two addresses reach one cell exactly when `ppuHome` is one. -/

namespace Sys2Proof.Claims

open Sys2Proof.Machine

/-- An address of 14 bits is its own first mirror. -/
@[simp] theorem ppuHome_mod (m : Mirroring) (a : Nat) : ppuHome m (a % 0x4000) = ppuHome m a := by
  simp only [ppuHome, Nat.mod_mod]

theorem ppuHome_pattern (m : Mirroring) {a : Nat} (h : a < 0x2000) : ppuHome m a = a := by
  have e : a % 0x4000 = a := Nat.mod_eq_of_lt (by omega)
  simp only [ppuHome, e, h, if_true]

/-- A home lies in its address's region. -/
theorem ppuHome_region (m : Mirroring) (a : Nat) :
    (ppuHome m a < 0x2000 ↔ a % 0x4000 < 0x2000) ∧ (ppuHome m a < 0x3F00 ↔ a % 0x4000 < 0x3F00) := by
  cases m <;> simp only [ppuHome] <;> split_ifs <;> omega

/-- Two nametable addresses reach one VRAM byte exactly when they have one home (20_memory R253). -/
theorem mapNametable_eq_iff (m : Mirroring) {a b : Nat} (ha : 0x2000 ≤ a) (ha' : a < 0x3F00) (hb : 0x2000 ≤ b) (hb' : b < 0x3F00) :
    mapNametable m a = mapNametable m b ↔ ppuHome m a = ppuHome m b := by
  have ea : a % 0x4000 = a := Nat.mod_eq_of_lt (by omega)
  have eb : b % 0x4000 = b := Nat.mod_eq_of_lt (by omega)
  have ra : ¬a < 0x2000 := by omega
  have rb : ¬b < 0x2000 := by omega
  cases m <;> simp only [mapNametable, ppuHome, ea, eb, ra, rb, ha', hb', if_true, if_false] <;> omega

/-- Two palette addresses reach one entry exactly when they have one home (20_memory R254). -/
theorem paletteIndex_eq_iff (m : Mirroring) {a b : Nat} (ha : 0x3F00 ≤ a) (ha' : a < 0x4000) (hb : 0x3F00 ≤ b) (hb' : b < 0x4000) :
    paletteIndex a = paletteIndex b ↔ ppuHome m a = ppuHome m b := by
  have ea : a % 0x4000 = a := Nat.mod_eq_of_lt ha'
  have eb : b % 0x4000 = b := Nat.mod_eq_of_lt hb'
  have ra : ¬a < 0x2000 ∧ ¬a < 0x3F00 := by omega
  have rb : ¬b < 0x2000 ∧ ¬b < 0x3F00 := by omega
  simp only [paletteIndex, ppuHome, ea, eb, ra, rb, if_false]
  split_ifs <;> omega

/-! A read and a write by region (20_memory R250). -/

theorem ppuRead_pattern (s : State) {a : Nat} (h : a < 0x2000) : ppuRead s a = s.cart.readGraphics a := by
  have e : a % 0x4000 = a := Nat.mod_eq_of_lt (by omega)
  have h' : a ≤ 0x1FFF := by omega
  simp only [ppuRead, e, h', if_true]

theorem ppuRead_nametable (s : State) {a : Nat} (h : 0x2000 ≤ a) (h' : a < 0x3F00) :
    ppuRead s a = s.vram.read (mapNametable s.cart.mirroring a) := by
  have e : a % 0x4000 = a := Nat.mod_eq_of_lt (by omega)
  have h1 : ¬a ≤ 0x1FFF := by omega
  have h2 : a ≤ 0x3EFF := by omega
  simp only [ppuRead, e, h1, h2, if_true, if_false]

theorem ppuRead_palette (s : State) {a : Nat} (h : 0x3F00 ≤ a) (h' : a < 0x4000) : ppuRead s a = s.ppu.palette.read (paletteIndex a) := by
  have e : a % 0x4000 = a := Nat.mod_eq_of_lt h'
  have h1 : ¬a ≤ 0x1FFF := by omega
  have h2 : ¬a ≤ 0x3EFF := by omega
  simp only [ppuRead, e, h1, h2, if_false]

theorem ppuWrite_pattern (v : Byte) (s : State) {a : Nat} (h : a < 0x2000) : ppuWrite a v s = writeGraphics a v s := by
  have e : a % 0x4000 = a := Nat.mod_eq_of_lt (by omega)
  have h' : a ≤ 0x1FFF := by omega
  simp only [ppuWrite, e, h', if_true]

theorem ppuWrite_nametable (v : Byte) (s : State) {a : Nat} (h : 0x2000 ≤ a) (h' : a < 0x3F00) :
    ppuWrite a v s = { s with vram := s.vram.write (mapNametable s.cart.mirroring a) v } := by
  have e : a % 0x4000 = a := Nat.mod_eq_of_lt (by omega)
  have h1 : ¬a ≤ 0x1FFF := by omega
  have h2 : a ≤ 0x3EFF := by omega
  simp only [ppuWrite, e, h1, h2, if_true, if_false]

theorem ppuWrite_palette (v : Byte) (s : State) {a : Nat} (h : 0x3F00 ≤ a) (h' : a < 0x4000) :
    ppuWrite a v s = { s with ppu := { s.ppu with palette := s.ppu.palette.write (paletteIndex a) (v &&& 0x3F) } } := by
  have e : a % 0x4000 = a := Nat.mod_eq_of_lt h'
  have h1 : ¬a ≤ 0x1FFF := by omega
  have h2 : ¬a ≤ 0x3EFF := by omega
  simp only [ppuWrite, e, h1, h2, if_false]

end Sys2Proof.Claims
end

