-- ==== Sys2Proof/Tests/Slice0.lean ====
section
/-! SUPPORT. The model's own tests: well-formedness, decoding, single steps and devices, with expected values from
95_test_vectors, and one witness for each statement's hypotheses. -/

namespace Sys2Proof.Tests

open Sys2Proof.Machine Sys2Proof.Claims

-- One theorem at a time: these wait on the kernel, and each waiting theorem would hold a thread of its own.
set_option Elab.async false

/-! Small states. -/

/-- Cells placed at CPU addresses. -/
def poke : List (Nat × Byte) → State → State
  | [], s => s
  | (a, v) :: rest, s => poke rest (placeByte (BitVec.ofNat 16 a) v s)

/-- 95_test_vectors section 2.0: power-on with a variant 0 cartridge of two PRG banks, the cells listed, PC at 0x8000, and the
CPU changed by `f`. -/
def boot (cells : List (Nat × Byte)) (f : Cpu → Cpu) : State :=
  poke cells { State.reset with cpu := f { State.cpuReset with pc := 0x8000 }, cart := { State.cartReset with prgBanks := 2 } }

/-- The vectors' `irqLine = 1`. -/
def withFrameIrq (s : State) : State := { s with apu := { s.apu with frameIrq := true } }

/-- The CPU registers and the cycles returned. -/
structure Regs where
  a : Byte
  x : Byte
  y : Byte
  s : Byte
  p : Byte
  pc : Word
  cycles : Nat
deriving DecidableEq, Repr

/-- What a step ends with: the registers, and whether the cells listed hold the bytes listed. -/
def ended (s : State) (cells : List (Nat × Byte)) : Option (Regs × Bool) :=
  match step s with
  | .next t =>
    let c := t.cpu
    some (⟨c.a, c.x, c.y, c.s, c.p, c.pc, c.cycles⟩, cells.all (fun p => (busRead (BitVec.ofNat 16 p.1) t).1 == p.2))
  | _ => none

/-! One step, a vector or two of 95_test_vectors for each mnemonic (sections 2.1 to 2.7). -/

/-- V405: LDA abs,Y wrap 64K. -/
theorem test_lda_abs_y_wrap_64k : ended (boot [(0x8000, 0xB9), (0x8001, 0xF0), (0x8002, 0xFF), (0x0010, 0x42)] (fun c => { c with y := 0x20 })) [] =
    some (⟨0x42, 0x00, 0x20, 0xFD, 0x24, 0x8003, 5⟩, true) := by decide +kernel

/-- V406: LDA (zp,X) ptr wrap. -/
theorem test_lda_zp_x_ptr_wrap : ended (boot [(0x8000, 0xA1), (0x8001, 0xFE), (0x00FF, 0x34), (0x0000, 0x02), (0x0234, 0x5A)] (fun c => { c with x := 0x01 })) [] =
    some (⟨0x5A, 0x01, 0x00, 0xFD, 0x24, 0x8002, 6⟩, true) := by decide +kernel

/-- V409: LDX zp,Y wrap. -/
theorem test_ldx_zp_y_wrap : ended (boot [(0x8000, 0xB6), (0x8001, 0xFF), (0x0001, 0x80)] (fun c => { c with y := 0x02 })) [] =
    some (⟨0x00, 0x80, 0x02, 0xFD, 0xA4, 0x8002, 4⟩, true) := by decide +kernel

/-- V410: LDY abs,X cross. -/
theorem test_ldy_abs_x_cross : ended (boot [(0x8000, 0xBC), (0x8001, 0xFF), (0x8002, 0x01), (0x0200, 0x00)] (fun c => { c with x := 0x01 })) [] =
    some (⟨0x00, 0x01, 0x00, 0xFD, 0x26, 0x8003, 5⟩, true) := by decide +kernel

/-- V412: STA abs,X cross (no penalty). -/
theorem test_sta_abs_x_cross_no_penalty : ended (boot [(0x8000, 0x9D), (0x8001, 0xF0), (0x8002, 0x02)] (fun c => { c with a := 0x77, x := 0x20 })) [(0x0310, 0x77)] =
    some (⟨0x77, 0x20, 0x00, 0xFD, 0x24, 0x8003, 5⟩, true) := by decide +kernel

/-- V414: STX zp,Y wrap. -/
theorem test_stx_zp_y_wrap : ended (boot [(0x8000, 0x96), (0x8001, 0xFE)] (fun c => { c with x := 0x12, y := 0x03 })) [(0x0001, 0x12)] =
    some (⟨0x00, 0x12, 0x03, 0xFD, 0x24, 0x8002, 4⟩, true) := by decide +kernel

/-- V421: TAY zero. -/
theorem test_tay_zero : ended (boot [(0x8000, 0xA8)] (fun c => { c with y := 0x12 })) [] =
    some (⟨0x00, 0x00, 0x00, 0xFD, 0x26, 0x8001, 2⟩, true) := by decide +kernel

/-- V420: TAX neg. -/
theorem test_tax_neg : ended (boot [(0x8000, 0xAA)] (fun c => { c with a := 0xF0 })) [] =
    some (⟨0xF0, 0xF0, 0x00, 0xFD, 0xA4, 0x8001, 2⟩, true) := by decide +kernel

/-- V422: TSX. -/
theorem test_tsx : ended (boot [(0x8000, 0xBA)] (fun c => { c with s := 0x80 })) [] =
    some (⟨0x00, 0x80, 0x00, 0x80, 0xA4, 0x8001, 2⟩, true) := by decide +kernel

/-- V423: TXS no flags. -/
theorem test_txs_no_flags : ended (boot [(0x8000, 0x9A)] id) [] =
    some (⟨0x00, 0x00, 0x00, 0x00, 0x24, 0x8001, 2⟩, true) := by decide +kernel

/-- V424: TXA. -/
theorem test_txa : ended (boot [(0x8000, 0x8A)] (fun c => { c with x := 0x7F })) [] =
    some (⟨0x7F, 0x7F, 0x00, 0xFD, 0x24, 0x8001, 2⟩, true) := by decide +kernel

/-- V425: TYA zero. -/
theorem test_tya_zero : ended (boot [(0x8000, 0x98)] (fun c => { c with a := 0x10 })) [] =
    some (⟨0x00, 0x00, 0x00, 0xFD, 0x26, 0x8001, 2⟩, true) := by decide +kernel

/-- V426: PHA S wrap. -/
theorem test_pha_s_wrap : ended (boot [(0x8000, 0x48)] (fun c => { c with a := 0x99, s := 0x00 })) [(0x0100, 0x99)] =
    some (⟨0x99, 0x00, 0x00, 0xFF, 0x24, 0x8001, 3⟩, true) := by decide +kernel

/-- V427: PLA S wrap. -/
theorem test_pla_s_wrap : ended (boot [(0x8000, 0x68), (0x0100, 0x80)] (fun c => { c with s := 0xFF })) [] =
    some (⟨0x80, 0x00, 0x00, 0x00, 0xA4, 0x8001, 4⟩, true) := by decide +kernel

/-- V428: PHP B,U set. -/
theorem test_php_b_u_set : ended (boot [(0x8000, 0x08)] (fun c => { c with p := 0xC3 })) [(0x01FD, 0xF3)] =
    some (⟨0x00, 0x00, 0x00, 0xFC, 0xC3, 0x8001, 3⟩, true) := by decide +kernel

/-- V429: PLP drop B. -/
theorem test_plp_drop_b : ended (boot [(0x8000, 0x28), (0x01FD, 0xFF)] (fun c => { c with s := 0xFC })) [] =
    some (⟨0x00, 0x00, 0x00, 0xFD, 0xEF, 0x8001, 4⟩, true) := by decide +kernel

/-- V441: ADC signed ovf. -/
theorem test_adc_signed_ovf : ended (boot [(0x8000, 0x69), (0x8001, 0x50)] (fun c => { c with a := 0x50 })) [] =
    some (⟨0xA0, 0x00, 0x00, 0xFD, 0xE4, 0x8002, 2⟩, true) := by decide +kernel

/-- V446: ADC FF+FF+1. -/
theorem test_adc_ff_ff_1 : ended (boot [(0x8000, 0x69), (0x8001, 0xFF)] (fun c => { c with a := 0xFF, p := 0x25 })) [] =
    some (⟨0xFF, 0x00, 0x00, 0xFD, 0xA5, 0x8002, 2⟩, true) := by decide +kernel

/-- V448: SBC signed ovf. -/
theorem test_sbc_signed_ovf : ended (boot [(0x8000, 0xE9), (0x8001, 0xB0)] (fun c => { c with a := 0x50, p := 0x25 })) [] =
    some (⟨0xA0, 0x00, 0x00, 0xFD, 0xE4, 0x8002, 2⟩, true) := by decide +kernel

/-- V449: SBC C=0 extra 1. -/
theorem test_sbc_c_0_extra_1 : ended (boot [(0x8000, 0xE9), (0x8001, 0x01)] (fun c => { c with a := 0x05 })) [] =
    some (⟨0x03, 0x00, 0x00, 0xFD, 0x25, 0x8002, 2⟩, true) := by decide +kernel

/-- V452: AND zero. -/
theorem test_and_zero : ended (boot [(0x8000, 0x29), (0x8001, 0x0F)] (fun c => { c with a := 0xF0 })) [] =
    some (⟨0x00, 0x00, 0x00, 0xFD, 0x26, 0x8002, 2⟩, true) := by decide +kernel

/-- V453: ORA abs,Y cross. -/
theorem test_ora_abs_y_cross : ended (boot [(0x8000, 0x19), (0x8001, 0xFF), (0x8002, 0x02), (0x0300, 0x80)] (fun c => { c with a := 0x01, y := 0x01 })) [] =
    some (⟨0x81, 0x00, 0x01, 0xFD, 0xA4, 0x8003, 5⟩, true) := by decide +kernel

/-- V454: EOR self. -/
theorem test_eor_self : ended (boot [(0x8000, 0x49), (0x8001, 0xAA)] (fun c => { c with a := 0xAA })) [] =
    some (⟨0x00, 0x00, 0x00, 0xFD, 0x26, 0x8002, 2⟩, true) := by decide +kernel

/-- V455: BIT V,N from M. -/
theorem test_bit_v_n_from_m : ended (boot [(0x8000, 0x2C), (0x8001, 0x00), (0x8002, 0x02), (0x0200, 0x40)] (fun c => { c with a := 0xFF })) [] =
    some (⟨0xFF, 0x00, 0x00, 0xFD, 0x64, 0x8003, 4⟩, true) := by decide +kernel

/-- V458: CMP greater. -/
theorem test_cmp_greater : ended (boot [(0x8000, 0xC9), (0x8001, 0x01)] (fun c => { c with a := 0x80 })) [] =
    some (⟨0x80, 0x00, 0x00, 0xFD, 0x25, 0x8002, 2⟩, true) := by decide +kernel

/-- V460: CPX 0 vs FF. -/
theorem test_cpx_0_vs_ff : ended (boot [(0x8000, 0xE0), (0x8001, 0xFF)] id) [] =
    some (⟨0x00, 0x00, 0x00, 0xFD, 0x24, 0x8002, 2⟩, true) := by decide +kernel

/-- V461: CPY zp. -/
theorem test_cpy_zp : ended (boot [(0x8000, 0xC4), (0x8001, 0x20), (0x0020, 0x10)] (fun c => { c with y := 0x10 })) [] =
    some (⟨0x00, 0x00, 0x10, 0xFD, 0x27, 0x8002, 3⟩, true) := by decide +kernel

/-- V464: INC abs,X cross (7). -/
theorem test_inc_abs_x_cross_7 : ended (boot [(0x8000, 0xFE), (0x8001, 0xFF), (0x8002, 0x02), (0x0300, 0x7F)] (fun c => { c with x := 0x01 })) [(0x0300, 0x80)] =
    some (⟨0x00, 0x01, 0x00, 0xFD, 0xA4, 0x8003, 7⟩, true) := by decide +kernel

/-- V463: DEC to neg. -/
theorem test_dec_to_neg : ended (boot [(0x8000, 0xC6), (0x8001, 0x10), (0x0010, 0x00)] id) [(0x0010, 0xFF)] =
    some (⟨0x00, 0x00, 0x00, 0xFD, 0xA4, 0x8002, 5⟩, true) := by decide +kernel

/-- V465: INX wrap. -/
theorem test_inx_wrap : ended (boot [(0x8000, 0xE8)] (fun c => { c with x := 0xFF })) [] =
    some (⟨0x00, 0x00, 0x00, 0xFD, 0x26, 0x8001, 2⟩, true) := by decide +kernel

/-- V466: DEY wrap. -/
theorem test_dey_wrap : ended (boot [(0x8000, 0x88)] id) [] =
    some (⟨0x00, 0x00, 0xFF, 0xFD, 0xA4, 0x8001, 2⟩, true) := by decide +kernel

/-- V467: DEX to zero. -/
theorem test_dex_to_zero : ended (boot [(0x8000, 0xCA)] (fun c => { c with x := 0x01 })) [] =
    some (⟨0x00, 0x00, 0x00, 0xFD, 0x26, 0x8001, 2⟩, true) := by decide +kernel

/-- V468: INY. -/
theorem test_iny : ended (boot [(0x8000, 0xC8)] (fun c => { c with y := 0x7F })) [] =
    some (⟨0x00, 0x00, 0x80, 0xFD, 0xA4, 0x8001, 2⟩, true) := by decide +kernel

/-- V481: ASL zp. -/
theorem test_asl_zp : ended (boot [(0x8000, 0x06), (0x8001, 0x10), (0x0010, 0x41)] id) [(0x0010, 0x82)] =
    some (⟨0x00, 0x00, 0x00, 0xFD, 0xA4, 0x8002, 5⟩, true) := by decide +kernel

/-- V483: LSR abs,X. -/
theorem test_lsr_abs_x : ended (boot [(0x8000, 0x5E), (0x8001, 0x00), (0x8002, 0x02), (0x0205, 0xFF)] (fun c => { c with x := 0x05 })) [(0x0205, 0x7F)] =
    some (⟨0x00, 0x05, 0x00, 0xFD, 0x25, 0x8003, 7⟩, true) := by decide +kernel

/-- V484: ROL A carry in. -/
theorem test_rol_a_carry_in : ended (boot [(0x8000, 0x2A)] (fun c => { c with a := 0x80, p := 0x25 })) [] =
    some (⟨0x01, 0x00, 0x00, 0xFD, 0x25, 0x8001, 2⟩, true) := by decide +kernel

/-- V486: ROR A carry in. -/
theorem test_ror_a_carry_in : ended (boot [(0x8000, 0x6A)] (fun c => { c with a := 0x01, p := 0x25 })) [] =
    some (⟨0x80, 0x00, 0x00, 0xFD, 0xA5, 0x8001, 2⟩, true) := by decide +kernel

/-- V500: JMP abs. -/
theorem test_jmp_abs : ended (boot [(0x8000, 0x4C), (0x8001, 0x34), (0x8002, 0x12)] id) [] =
    some (⟨0x00, 0x00, 0x00, 0xFD, 0x24, 0x1234, 3⟩, true) := by decide +kernel

/-- V502: JMP ind page wrap. -/
theorem test_jmp_ind_page_wrap : ended (boot [(0x8000, 0x6C), (0x8001, 0xFF), (0x8002, 0x02), (0x02FF, 0x00), (0x0200, 0x90), (0x0300, 0xA0)] id) [] =
    some (⟨0x00, 0x00, 0x00, 0xFD, 0x24, 0x9000, 5⟩, true) := by decide +kernel

/-- V504: JSR S wrap. -/
theorem test_jsr_s_wrap : ended (boot [(0x8000, 0x20), (0x8001, 0x00), (0x8002, 0x90)] (fun c => { c with s := 0x00 })) [(0x0100, 0x80), (0x01FF, 0x02)] =
    some (⟨0x00, 0x00, 0x00, 0xFE, 0x24, 0x9000, 6⟩, true) := by decide +kernel

/-- V506: RTS S wrap. -/
theorem test_rts_s_wrap : ended (boot [(0x8000, 0x60), (0x01FF, 0xFF), (0x0100, 0x8F)] (fun c => { c with s := 0xFE })) [] =
    some (⟨0x00, 0x00, 0x00, 0x00, 0x24, 0x9000, 6⟩, true) := by decide +kernel

/-- V507: BNE not taken. -/
theorem test_bne_not_taken : ended (boot [(0x8000, 0xD0), (0x8001, 0x10)] (fun c => { c with p := 0x26 })) [] =
    some (⟨0x00, 0x00, 0x00, 0xFD, 0x26, 0x8002, 2⟩, true) := by decide +kernel

/-- V509: BEQ taken back. -/
theorem test_beq_taken_back : ended (boot [(0x8000, 0xF0), (0x8001, 0xFE)] (fun c => { c with p := 0x26 })) [] =
    some (⟨0x00, 0x00, 0x00, 0xFD, 0x26, 0x8000, 3⟩, true) := by decide +kernel

/-- V510: BCC cross fwd. -/
theorem test_bcc_cross_fwd : ended (boot [(0x80F0, 0x90), (0x80F1, 0x10)] (fun c => { c with pc := 0x80F0 })) [] =
    some (⟨0x00, 0x00, 0x00, 0xFD, 0x24, 0x8102, 4⟩, true) := by decide +kernel

/-- V511: BCS cross back. -/
theorem test_bcs_cross_back : ended (boot [(0x8010, 0xB0), (0x8011, 0x80)] (fun c => { c with pc := 0x8010, p := 0x25 })) [] =
    some (⟨0x00, 0x00, 0x00, 0xFD, 0x25, 0x7F92, 4⟩, true) := by decide +kernel

/-- V512: BMI taken. -/
theorem test_bmi_taken : ended (boot [(0x8000, 0x30), (0x8001, 0x02)] (fun c => { c with p := 0xA4 })) [] =
    some (⟨0x00, 0x00, 0x00, 0xFD, 0xA4, 0x8004, 3⟩, true) := by decide +kernel

/-- V513: BPL not taken. -/
theorem test_bpl_not_taken : ended (boot [(0x8000, 0x10), (0x8001, 0x02)] (fun c => { c with p := 0xA4 })) [] =
    some (⟨0x00, 0x00, 0x00, 0xFD, 0xA4, 0x8002, 2⟩, true) := by decide +kernel

/-- V514: BVS taken. -/
theorem test_bvs_taken : ended (boot [(0x8000, 0x70), (0x8001, 0x7F)] (fun c => { c with p := 0x64 })) [] =
    some (⟨0x00, 0x00, 0x00, 0xFD, 0x64, 0x8081, 3⟩, true) := by decide +kernel

/-- V515: BVC cross (next insn crosses). -/
theorem test_bvc_cross_next_insn_crosses : ended (boot [(0x80FE, 0x50), (0x80FF, 0x00)] (fun c => { c with pc := 0x80FE })) [] =
    some (⟨0x00, 0x00, 0x00, 0xFD, 0x24, 0x8100, 3⟩, true) := by decide +kernel

/-- V516: BRK. -/
theorem test_brk : ended (boot [(0x8000, 0x00), (0x8001, 0xFF), (0xFFFE, 0x00), (0xFFFF, 0x90)] (fun c => { c with p := 0x20 })) [(0x01FD, 0x80), (0x01FC, 0x02), (0x01FB, 0x30)] =
    some (⟨0x00, 0x00, 0x00, 0xFA, 0x24, 0x9000, 7⟩, true) := by decide +kernel

/-- V517: RTI. -/
theorem test_rti : ended (boot [(0x8000, 0x40), (0x01FB, 0x10), (0x01FC, 0x34), (0x01FD, 0x12)] (fun c => { c with s := 0xFA })) [] =
    some (⟨0x00, 0x00, 0x00, 0xFD, 0x20, 0x1234, 6⟩, true) := by decide +kernel

/-- V518: NOP. -/
theorem test_nop : ended (boot [(0x8000, 0xEA)] (fun c => { c with a := 0x11, p := 0xE7 })) [] =
    some (⟨0x11, 0x00, 0x00, 0xFD, 0xE7, 0x8001, 2⟩, true) := by decide +kernel

/-- V530: CLC. -/
theorem test_clc : ended (boot [(0x8000, 0x18)] (fun c => { c with p := 0xFF })) [] =
    some (⟨0x00, 0x00, 0x00, 0xFD, 0xFE, 0x8001, 2⟩, true) := by decide +kernel

/-- V531: SEC. -/
theorem test_sec : ended (boot [(0x8000, 0x38)] (fun c => { c with p := 0x20 })) [] =
    some (⟨0x00, 0x00, 0x00, 0xFD, 0x21, 0x8001, 2⟩, true) := by decide +kernel

/-- V532: CLI. -/
theorem test_cli : ended (boot [(0x8000, 0x58)] id) [] =
    some (⟨0x00, 0x00, 0x00, 0xFD, 0x20, 0x8001, 2⟩, true) := by decide +kernel

/-- V533: SEI. -/
theorem test_sei : ended (boot [(0x8000, 0x78)] (fun c => { c with p := 0x20 })) [] =
    some (⟨0x00, 0x00, 0x00, 0xFD, 0x24, 0x8001, 2⟩, true) := by decide +kernel

/-- V534: CLD. -/
theorem test_cld : ended (boot [(0x8000, 0xD8)] (fun c => { c with p := 0x2C })) [] =
    some (⟨0x00, 0x00, 0x00, 0xFD, 0x24, 0x8001, 2⟩, true) := by decide +kernel

/-- V535: SED. -/
theorem test_sed : ended (boot [(0x8000, 0xF8)] id) [] =
    some (⟨0x00, 0x00, 0x00, 0xFD, 0x2C, 0x8001, 2⟩, true) := by decide +kernel

/-- V536: CLV. -/
theorem test_clv : ended (boot [(0x8000, 0xB8)] (fun c => { c with p := 0x64 })) [] =
    some (⟨0x00, 0x00, 0x00, 0xFD, 0x24, 0x8001, 2⟩, true) := by decide +kernel

/-- V600: NMI entry. -/
theorem test_nmi_entry : ended (boot [(0x8000, 0xEA), (0xFFFA, 0x00), (0xFFFB, 0xA0)] (fun c => { c with p := 0x21, nmiPending := true })) [(0x01FD, 0x80), (0x01FC, 0x00), (0x01FB, 0x21)] =
    some (⟨0x00, 0x00, 0x00, 0xFA, 0x25, 0xA000, 7⟩, true) := by decide +kernel

/-- V603: IRQ taken. -/
theorem test_irq_taken : ended (withFrameIrq (boot [(0x8000, 0xEA), (0xFFFE, 0x00), (0xFFFF, 0xB0)] (fun c => { c with p := 0x20 }))) [(0x01FB, 0x20)] =
    some (⟨0x00, 0x00, 0x00, 0xFA, 0x24, 0xB000, 7⟩, true) := by decide +kernel

/-- R435: the one mnemonic the vectors leave out, and openBus holds the last byte read (R207, T206). -/
theorem test_sty_zp : (match step (boot [(0x8000, 0x84), (0x8001, 0x10)] (fun c => { c with y := 0x05 })) with
    | .next t => some (t.ram.read 0x10, t.cpu.pc, t.cpu.cycles, t.openBus)
    | _ => none) = some (0x05, 0x8002, 3, 0x10) := by decide +kernel

/-- V605: the stall is drained first; the CPU's part of the step. -/
theorem test_stall_is_drained : (match cpuStep (boot [(0x8000, 0xEA)] (fun c => { c with stallCycles := 514 })) with
    | .next t => some (t.cpu.cycles, t.cpu.stallCycles, t.cpu.pc)
    | _ => none) = some (516, 0, 0x8001) := by decide +kernel

/-- V606: the fatal opcode. -/
theorem test_unassigned_opcode_is_fatal : (match step (boot [(0x8000, 0x02)] id) with
    | .fault (.fatal r t) => some (r, t.fault, t.cpu.pc, t.openBus, t.cpu.totalCycles)
    | _ => none) =
      some (.unimplementedOpcode 0x02 0x8000, some (.unimplementedOpcode 0x02 0x8000), 0x8001, 0x02, 7) := by decide +kernel

/-! Well-formedness and decoding. -/

/-- R240: no PRG bank. -/
theorem test_image_without_prg_is_ill_formed : CartImage.wellFormed { CartImage.blank with prgBanks := 0 } = false := by decide
/-- R240: a PRG byte beyond 16384 bytes a bank. -/
theorem test_image_prg_too_long : CartImage.wellFormed { CartImage.blank with prg := [(16384, 1)] } = false := by decide
/-- R240: a CHR byte where there is no CHR ROM. -/
theorem test_image_chr_too_long : CartImage.wellFormed { CartImage.blank with chrBanks := 0, chr := [(0, 1)] } = false := by decide
/-- Memory's canonical form: addresses strictly rising, no entry that an unlisted address reads as. -/
theorem test_memory_form : Mem.wf 4 [(1, 7), (3, 9)] = true ∧ Mem.wf 4 [(3, 9), (1, 7)] = false ∧ Mem.wf 4 [(1, 7), (1, 9)] = false ∧
    Mem.wf 4 [(1, 0)] = false ∧ Mem.wf 4 [(4, 7)] = false := by decide
/-- R255: a palette entry has six bits. R1146: no listed row of a picture is empty. -/
theorem test_colour_form : Mem.wf6 32 [(0, 0x3F)] = true ∧ Mem.wf6 32 [(0, 0x40)] = false ∧ Frame.wf [(239, [(255, 1)])] = true ∧
    Frame.wf [(240, [(0, 1)])] = false ∧ Frame.wf [(0, [])] = false := by decide
/-- R306: an unassigned byte, and bytes that end too early. -/
theorem test_decode_refuses : decode [0x02, 0x00, 0x00] = .error (.unimplementedOpcode 0x02) ∧ decode [] = .error .truncated ∧
    decode [0xA9] = .error .truncated ∧ decode [0x4C, 0x00] = .error .truncated := by decide +kernel

/-- R430 to R435. 0xAD = 10101101, then the address low byte first. -/
theorem test_decode_loads : decode [0xAD, 0x05, 0x18] = .ok (.ldaAbs 0x1805, []) ∧ decode [0xB6, 0xFF] = .ok (.ldxZpy 0xFF, []) ∧
    decode [0xBC, 0xFF, 0x01] = .ok (.ldyAbx 0x01FF, []) ∧ decode [0x91, 0x40] = .ok (.staIzy 0x40, []) ∧
    decode [0x96, 0xFE] = .ok (.stxZpy 0xFE, []) ∧ decode [0x94, 0x01] = .ok (.styZpx 0x01, []) := by decide +kernel
/-- R500 to R509. -/
theorem test_decode_transfers : [0xAA, 0xA8, 0x8A, 0x98, 0xBA, 0x9A, 0x48, 0x08, 0x68, 0x28].map (decodeTableWord 8) =
    [Instr.tax, .tay, .txa, .tya, .tsx, .txs, .pha, .php, .pla, .plp].map some := by decide +kernel
/-- R601 to R617. -/
theorem test_decode_arithmetic : decode [0x29, 0x0F] = .ok (.andImm 0x0F, []) ∧ decode [0x19, 0xFF, 0x02] = .ok (.oraAby 0x02FF, []) ∧
    decode [0x41, 0x10] = .ok (.eorIzx 0x10, []) ∧ decode [0x2C, 0x00, 0x02] = .ok (.bitAbs 0x0200, []) ∧
    decode [0x75, 0x01] = .ok (.adcZpx 0x01, []) ∧ decode [0xE1, 0x02] = .ok (.sbcIzx 0x02, []) ∧
    decode [0xDD, 0x00, 0x30] = .ok (.cmpAbx 0x3000, []) ∧ decode [0xFE, 0xFF, 0x02] = .ok (.incAbx 0x02FF, []) ∧
    decode [0xC6, 0x10] = .ok (.decZp 0x10, []) := by decide +kernel
/-- R608 to R617. -/
theorem test_decode_register_arithmetic : [0xE8, 0xC8, 0xCA, 0x88].map (decodeTableWord 8) = [Instr.inx, .iny, .dex, .dey].map some ∧
    decode [0xEC, 0x34, 0x12] = .ok (.cpxAbs 0x1234, []) ∧ decode [0xC4, 0x20] = .ok (.cpyZp 0x20, []) := by decide +kernel
/-- R700 to R703. -/
theorem test_decode_shifts : [0x0A, 0x4A, 0x2A, 0x6A].map (decodeTableWord 8) = [Instr.aslAcc, .lsrAcc, .rolAcc, .rorAcc].map some ∧
    decode [0x5E, 0x00, 0x02] = .ok (.lsrAbx 0x0200, []) ∧ decode [0x26, 0x10] = .ok (.rolZp 0x10, []) := by decide +kernel
/-- R800 to R830. -/
theorem test_decode_control : decode [0x4C, 0x34, 0x12] = .ok (.jmpAbs 0x1234, []) ∧ decode [0x20, 0x00, 0x90] = .ok (.jsr 0x9000, []) ∧
    [0x60, 0x00, 0x40, 0xEA].map (decodeTableWord 8) = [Instr.rts, .brk, .rti, .nop].map some ∧
    [0x90, 0xB0, 0xF0, 0xD0, 0x30, 0x10, 0x50, 0x70].map (fun w => decodeTableWord 16 (0x8000 + w)) =
      [Instr.bcc 0x80, .bcs 0x80, .beq 0x80, .bne 0x80, .bmi 0x80, .bpl 0x80, .bvc 0x80, .bvs 0x80].map some := by decide +kernel
/-- R900 to R906. -/
theorem test_decode_flags : [0x18, 0x38, 0x58, 0x78, 0xD8, 0xF8, 0xB8].map (decodeTableWord 8) =
    [Instr.clc, .sec, .cli, .sei, .cld, .sed, .clv].map some := by decide +kernel
/-- R305, R306: 151 assigned bytes. -/
theorem test_assigned_bytes : ((List.range 256).filter (fun n => (decodeTableWord 8 n).isSome)).length = 151 := by decide +kernel
/-- An instruction placed where the next step fetches runs there. -/
theorem test_placed_instruction_runs : (match step (State.reset.withFetchWord 16 0x80A9) with
    | .next t => some (t.cpu.a, t.cpu.pc)
    | _ => none) = some (0x80, 0x0002) := by decide +kernel

/-! The bus, the mapper and the controllers (sections 2.8 to 2.10). -/

/-- A machine with a battery and the mapper and bank counts given. -/
def withCart (m : Mapper) (prgBanks chrBanks : Nat) (prg chr : Mem) : State :=
  { State.reset with cart := { State.cartReset with mapper := m, prgBanks := prgBanks, chrBanks := chrBanks, battery := true, prg := prg, chr := chr } }

/-- T200, T203, T204: unmapped reads answer openBus and log; T201: a write-only register does not log. -/
theorem test_open_bus : [0x5000, 0x4018, 0x6000, 0x4000, 0x2000].map (fun a => let r := busRead a (State.reset.setOpenBus 0x5A); (r.1, r.2.host.log)) =
    [(0x5A, [.unmappedRead 0x5000]), (0x5A, [.unmappedRead 0x4018]), (0x5A, [.unmappedRead 0x6000]), (0x5A, []), (0x5A, [])] := by decide +kernel
/-- T207, T208: a ROM write under variant 0 and an unmapped write are logged and change nothing else. -/
theorem test_ignored_writes : busWrite 0x8000 0x55 State.reset = State.reset.addLog (.romWrite 0x8000 0x55) ∧
    busWrite 0x5000 0x55 State.reset = State.reset.addLog (.unmappedWrite 0x5000 0x55) := by decide +kernel
/-- T205: PRG RAM present. -/
theorem test_prg_ram : (busRead 0x6000 (busWrite 0x6000 0x9C (withCart .nrom 1 1 [] []))).1 = 0x9C := by decide +kernel
/-- T220: 6 mod 4 selects bank 2; the last bank stays at 0xC000. -/
theorem test_variant2_banks : let s := busWrite 0x8000 0x06 (withCart (.uxrom 0) 4 1 [(0x4000, 1), (0x8000, 2), (0xC000, 3)] [])
    (s.cart.mapper, (busRead 0x8000 s).1, (busRead 0xC000 s).1) = (.uxrom 2, 2, 3) := by decide +kernel
/-- T225: 5 mod 4 selects CHR bank 1. -/
theorem test_variant3_banks : let s := busWrite 0x8000 0x05 (withCart (.cnrom 0) 1 4 [] [(0x2010, 0x77)])
    (s.cart.mapper, ppuRead s 0x0010) = (.cnrom 1, 0x77) := by decide +kernel
/-- T229, T230: CHR RAM takes a write and CHR ROM does not. -/
theorem test_chr_write : (ppuRead (ppuWrite 0x0005 0xAB (withCart .nrom 1 0 [] [])) 0x0005,
    ppuRead (ppuWrite 0x0005 0xAB (withCart .nrom 1 1 [] [])) 0x0005) = (0xAB, 0) := by decide +kernel
/-- T240, T242: A and Start, polled nine times; nothing pressed on port 1. -/
theorem test_controllers : let s : State := { State.reset with host := { State.hostReset with buttons0 := { State.noButtons with a := true, start := true } }, openBus := 0x40 }
    let t := busWrite 0x4016 0 (busWrite 0x4016 1 s)
    (List.range 9).map (fun k => readPort k t) = [true, false, false, true, false, false, false, false, true] ∧
      (busRead 0x4016 t).1 = 0x41 ∧ (busRead 0x4017 t).1 = 0x40 ∧ (busRead 0x4017 t).2.pads.sr1 = 0x80 := by decide +kernel

/-! The PPU (section 2.11). -/

/-- A machine whose PPU is `f` of its power-on state. -/
def withPpu (f : Ppu → Ppu) : State := { State.reset with ppu := f State.ppuReset }

/-- T260: the status read. -/
theorem test_status_read : let r := busRead 0x2002 (withPpu (fun p => { p with vblank := true, sprite0Hit := true, w := true }))
    (r.1, r.2.ppu.vblank, r.2.ppu.w, r.2.ppu.sprite0Hit, r.2.openBus) = (0xC0, false, false, true, 0xC0) := by decide +kernel
/-- T262: address, then data. -/
theorem test_address_then_data : let s := busWrite 0x2007 0x5A (busWrite 0x2006 0x08 (busWrite 0x2006 0x21 State.reset))
    (s.ppu.taddr, s.ppu.vaddr, s.ppu.w, s.vram.read 0x0108) = (0x2108, 0x2109, false, 0x5A) := by decide +kernel
/-- T263: horizontal and vertical mirroring. -/
theorem test_mirroring : (mapNametable .horizontal 0x2405, mapNametable .vertical 0x2405, mapNametable .horizontal 0x3405) = (0x0005, 0x0405, 0x0005) := by decide
/-- T265, T266: the read buffer, and the palette read that goes round it. -/
theorem test_data_reads : let s := { withPpu (fun p => { p with vaddr := 0x2108 }) with vram := [(0x0108, 0x5A), (0x0109, 0x6B)] }
    let r := busRead 0x2007 s
    let q := busRead 0x2007 { withPpu (fun p => { p with vaddr := 0x3F10, palette := [(0, 0x0F)] }) with vram := [(0x0710, 0x99)] }
    (r.1, (busRead 0x2007 r.2).1, (busRead 0x2007 r.2).2.ppu.vaddr) = (0x00, 0x5A, 0x210A) ∧
      (q.1, q.2.ppu.readBuffer, q.2.ppu.vaddr) = (0x0F, 0x99, 0x3F11) := by decide +kernel
/-- T268, T269, T270: scroll, control and address writes into `taddr`. -/
theorem test_scroll_writes : let s := busWrite 0x2005 0x7D State.reset
    let t := busWrite 0x2005 0x5E s
    let u := busWrite 0x2000 0x03 t
    (s.ppu.taddr, s.ppu.fineX, s.ppu.w) = (0x000F, 5, true) ∧ (t.ppu.taddr, t.ppu.w) = (0x616F, false) ∧
      u.ppu.taddr = 0x6D6F ∧ (busWrite 0x2006 0xFF u).ppu.taddr = 0x3F6F := by decide +kernel
/-- T272: enabling NMI during vblank raises one. -/
theorem test_nmi_on_enable : [withPpu (fun p => { p with vblank := true }), State.reset, withPpu (fun p => { p with vblank := true, ctrl := 0x80 })].map
    (fun s => (busWrite 0x2000 0x80 s).cpu.nmiPending) = [true, false, false] := by decide +kernel
/-- T273: vblank. -/
theorem test_vblank : let t := ppuTick (withPpu (fun p => { p with ctrl := 0x80, scanline := 241, dot := 1 }))
    (t.ppu.vblank, t.cpu.nmiPending, t.host.frames.length, t.ppu.dot) = (true, true, 1, 2) := by decide +kernel
/-- T274: the OAM port. -/
theorem test_oam_port : let s := busWrite 0x2004 0x77 (busWrite 0x2003 0x03 State.reset)
    (s.ppu.oam.read 3, s.ppu.oamAddr, (busRead 0x2004 s).2.ppu.oamAddr) = (0x77, 4, 4) := by decide +kernel
/-- T275: OAM DMA from `oamAddr` 0x10 on, and its stall on an odd cycle. -/
theorem test_oam_dma : let s : State := { withPpu (fun p => { p with oamAddr := 0x10 }) with ram := [(0x0201, 1), (0x02F0, 0xF0), (0x02FF, 0xFF)] }
    let t := busWrite 0x4014 0x02 { s with cpu := { s.cpu with totalCycles := 9, cycles := 4 } }
    (t.ppu.oam, t.openBus, t.cpu.stallCycles, t.ppu.oamAddr) = ([(0x00, 0xF0), (0x0F, 0xFF), (0x11, 1)], 0xFF, 514, 0x10) := by decide +kernel

/-- OAM with the sprites listed at Y 0x0A and every other sprite at Y 0xFF. -/
def oamWith (present : List Nat) : Mem := (List.range 64).map (fun i => (4 * i, if present.contains i then 0x0A else 0xFF))
/-- The PPU of T300 to T304: line 10, dot 257. -/
def atDot257 (present : List Nat) (p : Ppu) : Ppu := { p with mask := 0x18, scanline := 10, dot := 257, oam := oamWith present }
/-- T300, T301, T302: nine on a line, eight, and not sprite 0. -/
theorem test_sprite_evaluation : [[0, 1, 2, 3, 4, 5, 6, 7, 8], [0, 1, 2, 3, 4, 5, 6, 7], [1, 2, 3, 4, 5, 6, 7, 8, 9]].map
    (fun l => let q := (atDot257 l State.ppuReset).spriteDot257 (fun _ => 0); (q.sprCount, q.spriteOverflow, q.sprZeroInLine)) =
      [(8, true, true), (8, false, true), (8, true, false)] := by decide +kernel
/-- T310, T311, T312, T313: sprite 0 before and behind a background pixel. -/
theorem test_priority : let bg (v : Nat) : Pixel := { Pixel.clear with value := v }
    let sp (b : Bool) : Pixel := { value := 2, pal := 5, behind := b, zero := true }
    [muxAddr (bg 1) (sp false), muxAddr (bg 1) (sp true), muxAddr (bg 0) (sp true), muxAddr (bg 0) Pixel.clear] = [0x3F16, 0x3F01, 0x3F16, 0x3F00] ∧
      hits0 (bg 1) (sp true) 100 = true ∧ hits0 (bg 1) (sp false) 255 = false ∧ hits0 (bg 0) (sp true) 100 = false := by decide
/-- T316: the lowest slot decides. -/
theorem test_lowest_slot : firstSprite 8 false [⟨8, 0x20, 0x80, 0⟩, ⟨8, 0x00, 0x80, 0x80⟩] = { value := 1, pal := 4, behind := true, zero := false } := by
  decide

/-! The APU (section 2.12). -/

/-- A machine whose APU is `f` of its power-on state. -/
def withApu (f : Apu → Apu) : State := { State.reset with apu := f State.apuReset }

/-- T400, T401: the length table is loaded only while the channel is enabled. -/
theorem test_length_load : let s := busWrite 0x4003 0x08 (busWrite 0x4015 0x01 State.reset)
    (s.apu.pulse1.length, s.apu.pulse1.env.start, (busRead 0x4015 s).1 &&& 1, (busWrite 0x4003 0xF8 State.reset).apu.pulse1.length) = (0xFE, true, 1, 0) := by
  decide +kernel
/-- T404: a half frame at count 14913. -/
theorem test_half_frame : let f (h : Bool) := withApu (fun a => { a with frameCycle := 14912, pulse1 := { a.pulse1 with length := 0xFE, halt := h } })
    ((apuTick (f false)).apu.pulse1.length, (apuTick (f true)).apu.pulse1.length) = (0xFD, 0xFE) := by decide +kernel
/-- T405, T406: the frame interrupt and its inhibition. -/
theorem test_frame_irq : let s (inhibit : Bool) := withApu (fun a => { a with frameCycle := 29828, irqInhibit := inhibit })
    ((apuTick (s false)).apu.frameIrq, (apuTick (s true)).apu.frameIrq, (apuTick (apuTick (s false))).apu.frameCycle) = (true, false, 0) := by decide +kernel
/-- T407: the status read acknowledges. -/
theorem test_status_acknowledges : let r := busRead 0x4015 ((withApu (fun a => { a with frameIrq := true })).setOpenBus 0x40)
    (r.1, r.2.apu.frameIrq) = (0x40, false) := by decide +kernel
/-- T409: a 0x4017 write with bit 7 clocks both frames at once. -/
theorem test_five_step_write : let s := busWrite 0x4017 0x80 (withApu (fun a => { a with pulse1 := { a.pulse1 with length := 0x0A, volume := 3, env := { a.pulse1.env with start := true } } }))
    (s.apu.seqMode, s.apu.pulse1.length, s.apu.pulse1.env) = (true, 9, { start := false, divider := 3, decay := 15 }) := by decide +kernel
/-- T420: four envelope clocks a decay step. -/
theorem test_envelope : let e := clockEnvelope false 3
    (e { start := true, divider := 0, decay := 0 }, e { start := false, divider := 0, decay := 15 }, clockEnvelope true 3 { start := false, divider := 0, decay := 0 }) =
      ({ start := false, divider := 3, decay := 15 }, { start := false, divider := 3, decay := 14 }, { start := false, divider := 3, decay := 15 }) := by decide
/-- T425, T426, T427, T428: the sweep. -/
theorem test_sweep : let p := { State.pulseReset with timer := 0x100, swShift := 1 }
    ({ p with swNegate := true }).target true = 0x7F ∧ ({ p with swNegate := true }).target false = 0x80 ∧
    ({ p with timer := 0x7F0 }).muted true = true ∧ ({ p with timer := 0x007 }).muted true = true ∧
    (({ p with swEnabled := true, swPeriod := 2 }).clockSweep true).timer = 0x180 := by decide +kernel
/-- T435, T436: the linear counter. -/
theorem test_linear_counter : let t := busWrite 0x400B 0x7F (busWrite 0x4008 0x7F (busWrite 0x4015 0x04 State.reset))
    let u := t.apu.triangle.quarter
    (t.apu.triangle.linReload, t.apu.triangle.length, u.linear, u.linReload, u.quarter.linear) = (true, 0x0E, 0x7F, false, 0x7E) := by decide +kernel
/-- T438, T439: the noise shifter. -/
theorem test_noise : (lfsrNext false 0x0041, lfsrNext true 0x0041, lfsrNext false 1, noisePeriod 0) = (0x4020, 0x0020, 0x4000, 2) := by decide
/-- T450, T453, T454: a 0x4015 write starts a one-byte sample, which raises the interrupt or loops; none starts while one plays. -/
theorem test_dmc_sample : let s (irq loop : Bool) : State := withApu (fun a => { a with dmc := { a.dmc with irqEnable := irq, loop := loop } })
    let t := busWrite 0x4015 0x10 (s true false)
    (t.apu.dmcIrq, t.apu.dmc.bytesRemaining, t.apu.dmc.currentAddr, t.cpu.stallCycles) = (true, 0, 0xC001, 4) ∧
      (busWrite 0x4015 0x10 (s false true)).apu.dmc.bytesRemaining = 1 ∧
      (busWrite 0x4015 0x10 (withApu (fun a => { a with dmc := { a.dmc with bytesRemaining := 5 } }))).cpu.stallCycles = 0 := by decide +kernel
/-- T455, T457: the sample address wraps to 0x8000, and the level stays within 7 bits. -/
theorem test_dmc_units : dmcNextAddr 0xFFFF = 0x8000 ∧ dmcLevel false true 0x7E = 0x7E ∧ dmcLevel false true 0x7D = 0x7F ∧ dmcLevel false false 1 = 1 := by decide
/-- T460, T461, T465: the mixer; 95.88 / (8128/15 + 100) is 71910/481400. -/
theorem test_mixer : mixOf .nonlinear 0 0 0 0 0 = 0 ∧ mixOf .nonlinear 15 0 0 0 0 = 7191 / 48140 ∧ mixOf .linear 15 0 0 0 0 = 1128 / 10000 := by
  refine ⟨?_, ?_, ?_⟩ <;> norm_num [mixOf, pulseMix, tndMix, tndSum]
/-- T441, T443: zeros where no sample is ready, and the surplus dropped. -/
theorem test_drain : (drainSamples 4 State.reset).1 = [0, 0, 0, 0] ∧
    (let r := drainSamples 1 (withApu (fun a => { a with out := { a.out with ready := [1, 2] } })); (r.1, r.2.apu.out.ready) = ([1], [])) := by decide +kernel

/-! Reset, the run loop and save states (sections 1.2 and 2.13). -/

/-- T480, T481: a warm reset. -/
theorem test_warm_reset : let t := warmReset (boot [(0xFFFD, 0x80)] (fun c => { c with a := 0x78, p := 0x20, totalCycles := 430 }))
    (t.cpu.a, t.cpu.s, t.cpu.p, t.cpu.pc, t.cpu.totalCycles, t.openBus) = (0x78, 0xFA, 0x24, 0x8000, 437, 0x80) := by decide +kernel
/-- T482, T231: power-on, and an unsupported mapper. -/
theorem test_insert : (insertCartridge CartImage.blank PowerOnMemory.zero State.reset) = State.reset ∧
    (insertCartridge { CartImage.blank with mapperNumber := 1 } PowerOnMemory.zero State.reset).fault = some (.unsupportedMapper 1) := by decide +kernel
/-- T101, T102: a snapshot of another variant, and a faulted machine. -/
theorem test_load_state_refused : loadState (createSaveState (withCart (.uxrom 0) 1 1 [] [])) State.reset = .error .shapeMismatch ∧
    loadState (createSaveState State.reset) { State.reset with fault := some (.unsupportedMapper 1) } = .error .faulted := by decide +kernel
/-- R1310, R1311: the loop runs a step while it runs, and stops at a request. -/
theorem test_run_loop : let s := (hostCall .start (boot [(0x8000, 0xEA)] id)).2
    ((loopPass s).cpu.pc, (loopPass (hostCall .stop s).2).host.running, (hostCall .reset s).1) = (0x8001, false, .refused .loopRunning) := by decide +kernel

/-! Witnesses: for each statement with hypotheses, a concrete state and operands that meet them, with the values where its clauses
meet. -/

/-- The invariant of a concrete state, from its decidable parts and its bank register's range. -/
theorem inv_of {s : State}
    (h : s.cpu.Inv ∧ s.ppu.Inv ∧ s.apu.Inv ∧ 1 ≤ s.cart.prgBanks ∧ Mem.wf (16384 * s.cart.prgBanks) s.cart.prg = true ∧
      Mem.wf (8192 * s.cart.chrBanks) s.cart.chr = true ∧ Mem.wf 8192 s.cart.prgRam = true ∧ Mem.wf 8192 s.cart.chrRam = true ∧
      Mem.wf 2048 s.ram = true ∧ Mem.wf (vramSize s.cart.mirroring) s.vram = true)
    (hb : s.cart.bankInv) : s.Inv :=
  ⟨h.1, h.2.1, h.2.2.1, ⟨h.2.2.2.1, h.2.2.2.2.1, h.2.2.2.2.2.1, h.2.2.2.2.2.2.1, h.2.2.2.2.2.2.2.1, hb⟩, h.2.2.2.2.2.2.2.2.1, h.2.2.2.2.2.2.2.2.2⟩

/-- `JSR $9000` at 0x8000. -/
def atJsr : State := boot [(0x8000, 0x20), (0x8001, 0x00), (0x8002, 0x90)] id
/-- `JMP $8000` at 0x8000. -/
def atIdle : State := boot [(0x8000, 0x4C), (0x8001, 0x00), (0x8002, 0x80)] id
/-- PC at 0x4C4C, where nothing is mapped, with `v` on the bus. -/
def onOpenBus (v : Byte) : State := (boot [] (fun c => { c with pc := 0x4C4C })).setOpenBus v
/-- A battery, and variant 2 with four banks, the third selected. -/
def banked : State := withCart (.uxrom 2) 4 1 [(0x8000, 2)] []

theorem test_atJsr_inv : atJsr.Inv := inv_of (by decide +kernel) trivial
theorem test_banked_inv : banked.Inv := inv_of (by decide +kernel) (by show (2 : Nat) < 4; decide)
theorem test_withApu_inv : (withApu (fun a => { a with frameCycle := 29828 })).Inv := inv_of (by decide +kernel) trivial

/-- R1321 on open bus: `JMP $4C4C` needs 0x4C on the bus; a loop's neighbour is none. -/
theorem test_idle_loops : [atIdle, onOpenBus 0x4C, onOpenBus 0x00, (onOpenBus 0x4C).setPc 0x4C4D, atJsr].map (fun s => s.atIdleLoop) = [true, true, false, false, false] := by
  decide +kernel
/-- R1320: a stop request at an idle loop (log 22), the loop alone, and neither. -/
theorem test_run_end : [(hostCall .stop atIdle).2, atIdle, atJsr, { (hostCall .stop atIdle).2 with fault := some (.unsupportedMapper 1) }].map (fun s => s.runEnd) =
    [some .stopped, some .idle, none, some .faulted] := by decide +kernel
/-- S6: the calls a running loop refuses, and those it takes. -/
theorem test_calls_while_running : let s := (hostCall .start atJsr).2
    [HostCall.setSampleRate 44100, .getState, .createSaveState, .setState s.cpu, .start].map (fun c => (hostCall c s).1) = List.replicate 5 (.refused .loopRunning) ∧
      (hostCall (.drainSamples 1) s).1 ≠ .refused .loopRunning ∧ (hostCall .stop s).1 = .done ∧ (hostCall .getState atJsr).1 = .cpu atJsr.cpu := by decide +kernel

/-- Every mnemonic has an instruction, so no statement of the form `i.mnemonic = m → …` is empty. -/
theorem test_witness_every_mnemonic : ∀ m : Mnemonic, m ∈ (List.range 256).filterMap (fun n => (decodeTableWord 8 n).map Instr.mnemonic) := by
  intro m; cases m <;> decide +kernel
theorem test_witness_EncodeOfDecode : decode [0xBD, 0x34, 0x12, 0xEA] = .ok (.ldaAbx 0x1234, [0xEA]) := by decide +kernel
theorem test_witness_OpcodeSelectsForm : opcodeOf (.ldaImm 1) = opcodeOf (.ldaImm 2) := by decide +kernel
theorem test_witness_StepRunsDecodedInstruction : runsInstruction atJsr ∧ decode (fetchBytes 3 (drainStall atJsr)).1 = .ok (.jsr 0x9000, []) :=
  ⟨⟨by decide +kernel, by decide +kernel, by decide +kernel⟩, by decide +kernel⟩
/-- Both clauses. -/
theorem test_witness_NmiEntry : let s := { atJsr with cpu := { atJsr.cpu with nmiPending := true } }
    let u := withFrameIrq { atJsr with cpu := { atJsr.cpu with p := 0x20 } }
    (s.fault = none ∧ s.cpu.nmiPending = true) ∧ (u.fault = none ∧ u.cpu.nmiPending = false ∧ u.irqLine = true ∧ (flags u.cpu.p).i = false) := by
  decide +kernel
theorem test_witness_UnassignedOpcodeIsFatal : let s := boot [(0x8000, 0xFF)] id
    runsInstruction s ∧ (busRead s.cpu.pc (drainStall s)).1 ∈ unassigned := ⟨⟨by decide +kernel, by decide +kernel, by decide +kernel⟩, by decide +kernel⟩
theorem test_witness_NoOtherStop : ({ atJsr with fault := some (.unsupportedMapper 1) }).fault = some (.unsupportedMapper 1) ∧ atJsr.fault = none := by decide +kernel
/-- StepCycles, CartridgeIsImmutable and StepKeepsInvariant. -/
theorem test_witness_StepKeepsInvariant : atJsr.Inv ∧ ∃ t, step atJsr = .next t := by
  refine ⟨test_atJsr_inv, ?_⟩
  have h : (match step atJsr with | .next _ => true | _ => false) = true := by decide +kernel
  cases hs : step atJsr with
  | next t => exact ⟨t, rfl⟩
  | fault r => rw [hs] at h; exact absurd h Bool.false_ne_true
  | refused r => rw [hs] at h; exact absurd h Bool.false_ne_true
theorem test_witness_EveryInstructionCompletes : ({ atJsr with cpu := { atJsr.cpu with nmiPending := true } }).cpu.nmiPending = true := by decide +kernel
theorem test_witness_OverflowIsSigned : (∃ t, exec (.adcImm 0x80) atJsr = .next t) ∧ ∃ t, exec (.sbcImm 0x7F) atJsr = .next t := ⟨⟨_, rfl⟩, ⟨_, rfl⟩⟩
theorem test_witness_ShiftInstructions : Instr.mode .aslAcc = .accumulator ∧ Instr.mode (.rorZp 0) ≠ .accumulator := by decide +kernel
/-- JSR's three clauses: the pushes far from its bytes, on its high byte, and on it from the other push. -/
theorem test_witness_JsrCompletes : let far (pc : Word) (sp : Byte) := sameRamByte (pc - 1) (stackAddr sp)
    (far 0x8003 0xFD = false ∧ far 0x8003 0xFC = false) ∧ far 0x01FD 0xFC = true ∧ far 0x09FD 0xFC = true := by decide +kernel
theorem test_witness_JsrInSpecOrder : atJsr.Inv ∧ (busRead atJsr.cpu.pc atJsr).1 = 0x20 := ⟨test_atJsr_inv, by decide +kernel⟩
theorem test_witness_JsrThenRts : ∃ t, exec (.jsr 0x9000) atJsr = .next t ∧ t.ram = t.ram ∧ t.cpu.s = t.cpu.s := ⟨_, rfl, rfl, rfl⟩
/-- Each branch, taken and not. -/
theorem test_witness_BranchInstructions : ∀ f ∈ [Flags.c, Flags.z, Flags.n, Flags.v], f (flags 0x20) = false ∧ f (flags 0xFF) = true := by
  simp only [List.mem_cons, List.not_mem_nil, or_false, forall_eq_or_imp, forall_eq]; decide
theorem test_witness_BrkThenRti : ∃ t, exec .brk atJsr = .next t ∧ t.ram = t.ram ∧ t.cpu.s = t.cpu.s := ⟨_, rfl, rfl, rfl⟩

/-- The P and the registers an instruction leaves. -/
def leaves (i : Instr) (p : Byte) : Option (Byte × Byte × Byte × Byte × Byte) :=
  match exec i { atJsr with cpu := { atJsr.cpu with p := p } } with
  | .next t => some (t.cpu.a, t.cpu.x, t.cpu.y, t.cpu.s, t.cpu.p)
  | _ => none
/-- Each register is changed by some instruction, from A = X = Y = 0 and S = 0xFD. -/
theorem test_witness_RegisterWriters : [leaves (.ldaImm 5) 0x24, leaves (.ldxImm 5) 0x24, leaves (.ldyImm 5) 0x24, leaves .txs 0x24] =
    [some (5, 0, 0, 0xFD, 0x24), some (0, 5, 0, 0xFD, 0x24), some (0, 0, 5, 0xFD, 0x24), some (0, 0, 0, 0, 0x24)] := by decide +kernel
/-- Each flag is changed by some instruction; U and B only from a P no run reaches. -/
theorem test_witness_FlagWriters : [leaves .sec 0x24, leaves (.ldaImm 0) 0x24, leaves .cli 0x24, leaves .sed 0x24, leaves .clv 0x64, leaves (.ldxImm 0x80) 0x24].map
    (Option.map (fun r => r.2.2.2.2)) = [some 0x25, some 0x26, some 0x20, some 0x2C, some 0x24, some 0xA4] ∧
    (leaves .plp 0x10).map (fun r => r.2.2.2.2) = some 0x20 := by decide +kernel
theorem test_witness_DecimalHasNoEffect : Instr.mnemonic (.adcImm 1) ≠ .php ∧ Instr.mnemonic (.adcImm 1) ≠ .brk ∧ ∃ t, exec (.adcImm 1) atJsr = .next t :=
  ⟨by decide +kernel, by decide +kernel, ⟨_, rfl⟩⟩
/-- The clauses' boundary addresses: each address falls under one clause. -/
theorem test_witness_ReadEffects : let port (a : Word) : Option Nat := if 0x2000 ≤ a.toNat ∧ a.toNat ≤ 0x3FFF then some (a.toNat % 8) else none
    [0x2002, 0x3FFA, 0x2007, 0x3FFF].map port = [some 2, some 2, some 7, some 7] ∧
      [(0x0000 : Word), 0x1FFF, 0x2000, 0x3FFE, 0x4014, 0x4018, 0xFFFF].all (fun a => port a ≠ some 2 ∧ port a ≠ some 7 ∧ a ≠ 0x4015 ∧ a ≠ 0x4016 ∧ a ≠ 0x4017) = true := by
  decide +kernel
/-- RAM's last address, and both ends of PRG RAM under a battery. -/
theorem test_witness_ReadAfterWrite : banked.Inv ∧ (0x1FFF#16).toNat ≤ 0x1FFF ∧
    [(0x6000 : Word), 0x7FFF].all (fun a => 0x6000 ≤ a.toNat ∧ a.toNat ≤ 0x7FFF ∧ banked.cart.battery = true) = true := ⟨test_banked_inv, by decide +kernel, by decide +kernel⟩
theorem test_witness_WriteFrame : 0x1FFF < (0x2000#16).toNat ∧ (0x2000 : Word) ≠ 0x4014 ∧ (0x2000 : Word) ≠ 0x4015 := by decide +kernel
/-- Each variant, with the addresses where its clauses meet. -/
theorem test_witness_MapperWrites : atJsr.cart.mapper = .nrom ∧ (banked.cart.mapper = .uxrom 2 ∧ 1 ≤ banked.cart.prgBanks ∧ banked.cart.chrBanks ≠ 0) ∧
    (withCart (.cnrom 0) 1 0 [] []).cart.mapper = .cnrom 0 ∧
    [(0x8000 : Word), 0xBFFF].all (fun b => 0x8000 ≤ b.toNat ∧ b.toNat ≤ 0xBFFF) = true ∧ 0xC000 ≤ (0xC000#16).toNat ∧ (0x7FFF#16).toNat < 0x8000 ∧
    (0x7FFF : Word) ≠ 0x4014 ∧ (0x7FFF : Word) ≠ 0x4015 := by decide +kernel
theorem test_witness_ResetMeetsInvariant : let c := { CartImage.blank with mapperNumber := 2, prgBanks := 4, mirroring := .fourScreen, prg := [(0xFFFF, 0x80)] }
    let m := { PowerOnMemory.zero with ram := [(2047, 1)], vram := [(4095, 1)], oam := [(255, 1)], palette := [(31, 0x3F)] }
    c.wellFormed = true ∧ mapperOf c.mapperNumber ≠ none ∧ Mem.wf 2048 m.ram = true ∧ Mem.wf (vramSize c.mirroring) m.vram = true ∧
      Mem.wf 256 m.oam = true ∧ Mem.wf6 32 m.palette = true ∧ Mem.wf 8192 m.prgRam = true ∧ Mem.wf 8192 m.chrRam = true := by decide +kernel
theorem test_witness_PowerOnState : (∀ n ∈ [0, 2, 3], n = 0 ∨ n = 2 ∨ n = 3) ∧ (1 ≠ 0 ∧ 1 ≠ 2 ∧ 1 ≠ 3) := by decide +kernel
/-- Each port, at the first and the last mirror, both values of the toggle, and `vaddr` below the palette, at it and at its mirror. -/
theorem test_witness_PpuPorts : (∀ k ∈ List.range 8, ∀ base ∈ [0x2000, 0x3FF8], let a := BitVec.ofNat 16 (base + k)
    0x2000 ≤ a.toNat ∧ a.toNat ≤ 0x3FFF ∧ a.toNat % 8 = k) ∧ atJsr.ppu.w = false ∧ (withPpu (fun p => { p with w := true })).ppu.w = true ∧
    [0x3EFF, 0x3F00, 0x3FFF, 0x4000, 0x7F00].map (fun v => decide (0x3F00 ≤ (withPpu (fun p => { p with vaddr := v })).ppu.vaddr.toNat % 0x4000)) =
      [false, true, true, false, true] := by decide +kernel
theorem test_witness_ScrollAndAddressPairs : atJsr.ppu.w = false := by decide +kernel
/-- A good state with CHR RAM under four-screen mirroring. -/
def fourScreen : State := { withCart .nrom 1 0 [] [] with cart := { (withCart .nrom 1 0 [] []).cart with mirroring := .fourScreen } }
/-- The ends of the mirrored ranges, the mirrorings, CHR ROM and CHR RAM, and a written address with and without its mirror. -/
theorem test_witness_PpuAddressSpace : (banked.Inv ∧ banked.cart.chrBanks ≠ 0) ∧ (fourScreen.Inv ∧ fourScreen.cart.chrBanks = 0) ∧
    (∀ a ∈ [0x3000, 0x3EFF], 0x3000 ≤ a ∧ a ≤ 0x3EFF) ∧ (∀ a ∈ [0x3F00, 0x3F10, 0x3FFF], 0x3F00 ≤ a ∧ a ≤ 0x3FFF) ∧
    0x3F10 % 32 = 0x10 ∧ (∀ m ∈ [Mirroring.horizontal, .vertical, .singleScreen], ({ atJsr with cart := { atJsr.cart with mirroring := m } }).cart.mirroring = m) ∧
    [Mirroring.horizontal, .vertical, .singleScreen, .fourScreen].map (fun m => [0x2000, 0x2400, 0x2800, 0x2C00, 0x3C00].map (ppuHome m)) =
      [[0x2000, 0x2000, 0x2800, 0x2800, 0x2800], [0x2000, 0x2400, 0x2000, 0x2400, 0x2400], [0x2000, 0x2000, 0x2000, 0x2000, 0x2000],
        [0x2000, 0x2400, 0x2800, 0x2C00, 0x2C00]] :=
  ⟨⟨test_banked_inv, by decide +kernel⟩, ⟨inv_of (by decide +kernel) trivial, by decide +kernel⟩, by decide +kernel, by decide +kernel, by decide +kernel,
    by decide +kernel, by decide +kernel⟩
theorem test_witness_VblankTiming : let s (l d : Nat) := withPpu (fun p => { p with scanline := l, dot := d })
    ((s 241 1).ppu.scanline = 241 ∧ (s 241 1).ppu.dot = 1) ∧ ((s 261 1).ppu.scanline = 261 ∧ (s 261 1).ppu.dot = 1) ∧
      ¬((s 241 0).ppu.scanline = 241 ∧ (s 241 0).ppu.dot = 1) ∧ ¬((s 241 0).ppu.scanline = 261 ∧ (s 241 0).ppu.dot = 1) := by decide +kernel
/-- The last dot, and the skipped dot of an odd frame. -/
theorem test_witness_PpuPosition : let s := withPpu (fun p => { p with scanline := 261, dot := 340 })
    let u := withPpu (fun p => { p with scanline := 261, dot := 339, oddFrame := true, mask := 0x08 })
    (s.ppu.dot ≤ 340 ∧ s.ppu.scanline ≤ 261 ∧ ¬(s.ppu.scanline * 341 + s.ppu.dot = 261 * 341 + 339)) ∧
      (u.ppu.dot ≤ 340 ∧ u.ppu.scanline ≤ 261 ∧ u.ppu.scanline * 341 + u.ppu.dot = 261 * 341 + 339 ∧ u.ppu.oddFrame = true ∧ u.ppu.rendering = true) := by
  decide +kernel
/-- The last visible line while rendering, the line after it, and rendering off. -/
theorem test_witness_SpriteEvaluation : let p := { State.ppuReset with mask := 0x10, scanline := 239 }
    (p.rendering = true ∧ p.scanline ≤ 239) ∧ ¬({ p with scanline := 240 }).scanline ≤ 239 ∧ State.ppuReset.rendering = false := by decide +kernel
/-- A page of each kind of memory: RAM's last, PRG RAM's first, ROM's first and last. -/
theorem test_witness_OamDma : banked.Inv ∧ [(0x1F : Byte), 0x60, 0x80, 0xFF].all (fun v => banked.isMemory (mkWord v 0)) = true := ⟨test_banked_inv, by decide +kernel⟩
/-- FrameInterrupt and LengthCounters, at the count where the interrupt is raised and a half frame is clocked. -/
theorem test_witness_FrameInterrupt : let s := withApu (fun a => { a with frameCycle := 29828 })
    s.Inv ∧ s.apu.frameCycle + 1 = 29829 ∧ s.apu.seqMode = false := ⟨test_withApu_inv, by decide +kernel, by decide +kernel⟩
/-- A full buffer, the last byte of a looping sample, and an idle channel. -/
theorem test_witness_DmcReader : let s (e : Bool) (n : BitVec 12) := withApu (fun a => { a with dmc := { a.dmc with bufferEmpty := e, bytesRemaining := n, loop := true, currentAddr := 0xFFFF } })
    ((s false 1).Inv ∧ (s false 1).apu.dmc.bufferEmpty = false) ∧
      ((s true 1).Inv ∧ (s true 1).apu.dmc.bufferEmpty = true ∧ (s true 1).apu.dmc.bytesRemaining ≠ 0) ∧ ((s true 0).Inv ∧ (s true 0).apu.dmc.bytesRemaining = 0) :=
  ⟨⟨inv_of (by decide +kernel) trivial, by decide +kernel⟩, ⟨inv_of (by decide +kernel) trivial, by decide +kernel, by decide +kernel⟩, inv_of (by decide +kernel) trivial, by decide +kernel⟩
/-- The four clauses. -/
theorem test_witness_SaveAndRestore : banked.fault = none ∧ ({ banked with cart := { banked.cart with mapper := .uxrom 0 } }).cart.image = banked.cart.image ∧
    banked.cart.mapper.number ≠ atJsr.cart.mapper.number ∧ atJsr.fault = none ∧ ({ atJsr with fault := some (.unsupportedMapper 1) }).fault ≠ none :=
  ⟨rfl, rfl, by decide +kernel, by decide +kernel, by decide +kernel⟩
/-- A loop in memory, and the one on open bus. -/
theorem test_witness_IdleLoop : (runsInstruction atIdle ∧ atIdle.atIdleLoop = true ∧ atIdle.isMemory 0x8000 = true ∧ atIdle.isMemory 0x8001 = true ∧
    atIdle.isMemory 0x8002 = true) ∧ (runsInstruction (onOpenBus 0x4C) ∧ (onOpenBus 0x4C).atIdleLoop = true ∧ (onOpenBus 0x4C).isMemory 0x4C4C = false) :=
  ⟨⟨⟨by decide +kernel, by decide +kernel, by decide +kernel⟩, by decide +kernel, by decide +kernel, by decide +kernel, by decide +kernel⟩,
    ⟨by decide +kernel, by decide +kernel, by decide +kernel⟩, by decide +kernel, by decide +kernel⟩

end Sys2Proof.Tests
end

section
/-! SUPPORT. Instructions by access class with their operand resolver: `exec` as the class's own operation, nothing hidden. -/

namespace Sys2Proof.Claims

open Sys2Proof.Machine

/-- The operand resolver of an instruction's addressing mode (40_addressing_load_store R410 to R421). -/
def resolver (i : Instr) : State → State :=
  match i.mode with
  | .zeroPage => resolveZp (op8 i)
  | .zeroPageX => resolveZpx (op8 i)
  | .zeroPageY => resolveZpy (op8 i)
  | .absolute => resolveAbs (op16 i)
  | .absoluteX => resolveAbx i.penalty (op16 i)
  | .absoluteY => resolveAby i.penalty (op16 i)
  | .indirect => resolveInd (op16 i)
  | .indexedIndirectX => resolveIzx (op8 i)
  | .indirectIndexedY => resolveIzy i.penalty (op8 i)
  | .implied | .accumulator | .immediate | .relative => id

/-- Where `exec_read` leaves `ea` and `modeExtra` open, this equation fixes the whole next state. -/
theorem exec_eq_readMem {i : Instr} {op : Byte → State → State} (h : readOp i.mnemonic = some op) (hm : i.mode ≠ .immediate)
    (s : State) : exec i s = readMem i.cycles (resolver i) op s := by
  cases i <;> simp only [Instr.mnemonic, readOp, reduceCtorEq, Option.some.injEq] at h <;> subst h <;>
    simp only [Instr.mode, ne_eq, not_true_eq_false] at hm <;>
    simp only [resolver, Instr.mode, op8, op16, Instr.operand, BitVec.ofNat_toNat, BitVec.setWidth_eq] <;> rfl

theorem exec_eq_readImm {i : Instr} {op : Byte → State → State} (h : readOp i.mnemonic = some op) (hm : i.mode = .immediate)
    (s : State) : exec i s = readImm i.cycles op (op8 i) s := by
  cases i <;> simp only [Instr.mode, reduceCtorEq] at hm <;> simp only [Instr.mnemonic, readOp, Option.some.injEq] at h <;>
    subst h <;> simp only [op8, Instr.operand, BitVec.ofNat_toNat, BitVec.setWidth_eq] <;> rfl

theorem exec_eq_writeMem {i : Instr} {val : Cpu → Byte} (h : storeReg i.mnemonic = some val) (s : State) :
    exec i s = writeMem i.cycles (resolver i) (fun t => val t.cpu) s := by
  cases i <;> simp only [Instr.mnemonic, storeReg, reduceCtorEq, Option.some.injEq] at h <;> subst h <;>
    simp only [resolver, Instr.mode, op8, op16, Instr.operand, BitVec.ofNat_toNat, BitVec.setWidth_eq] <;> rfl

theorem exec_eq_modifyMem {i : Instr} {f : Byte → Byte → Byte} {g : Byte → Byte → Byte → Byte}
    (h : modifyOp i.mnemonic = some (f, g)) (hm : i.mode ≠ .accumulator) (s : State) :
    exec i s = modifyMem i.cycles (resolver i) f g s := by
  cases i <;> simp only [Instr.mnemonic, modifyOp, reduceCtorEq, Option.some.injEq, Prod.mk.injEq] at h <;>
    obtain ⟨rfl, rfl⟩ := h <;> simp only [Instr.mode, ne_eq, not_true_eq_false] at hm <;>
    simp only [resolver, Instr.mode, op8, op16, Instr.operand, BitVec.ofNat_toNat, BitVec.setWidth_eq] <;> rfl

theorem exec_eq_jump {i : Instr} (h : i.mnemonic = .jmp) (s : State) : exec i s = jump i.cycles (resolver i) s := by
  cases i <;> simp only [Instr.mnemonic, reduceCtorEq] at h <;>
    simp only [resolver, Instr.mode, op16, Instr.operand, BitVec.ofNat_toNat, BitVec.setWidth_eq] <;> rfl

theorem eq_jsr_of_mnemonic {i : Instr} (h : i.mnemonic = .jsr) : ∃ a, i = .jsr a := by
  cases i <;> simp only [Instr.mnemonic, reduceCtorEq] at h
  exact ⟨_, rfl⟩

theorem accumulator_mnemonic {i : Instr} (h : i.mode = .accumulator) : i.mnemonic ∈ [.asl, .lsr, .rol, .ror] := by
  cases i <;> simp only [Instr.mode, reduceCtorEq] at h <;> decide

/-- BRK's I by the flag's own name, so that the laws of `putI` apply. -/
theorem putBit_two (p : Byte) (b : Bool) : putBit p 2 b = putI b p := rfl

end Sys2Proof.Claims
end

section
/-! PROOFS. The machine's invariant at power-on and at every step (O43, O42), and the warm reset (O45). -/

namespace Sys2Proof.Claims

open Sys2Proof.Machine

/-- Settles O42: the entry or instruction of the step keeps the invariant, then its device cycles do. -/
theorem stepKeepsInvariant : Obligations.StepKeepsInvariant := by
  intro s t hs ht
  rcases step_does s with ⟨r, -, hstep⟩ | ⟨u, -, hstep, keeps⟩ | ⟨-, -, -, -, hstep⟩ <;> rw [hstep] at ht
  · cases ht
  · injection ht with ht
    subst ht
    obtain ⟨-, -, -, -, -, hinv⟩ := finishStep_keeps u
    exact hinv (keeps.inv hs)
  · cases ht

theorem reset_inv : State.reset.Inv :=
  ⟨by decide, by decide, by decide, ⟨by decide, rfl, rfl, rfl, rfl, trivial⟩, rfl, rfl⟩

/-- Power-on in closed form: the vector is read from the cartridge, and `openBus` ends at 0 (10_state R118). -/
theorem powerOn_eq (s : State) :
    powerOn s =
      { s with
        cpu := { State.cpuReset with pc := vectorWord s 0xFFFC }
        ppu := { State.ppuReset with oam := s.ppu.oam, palette := s.ppu.palette }
        apu := State.apuReset, pads := State.reset.pads, openBus := 0, fault := none } := by
  simp only [powerOn, read16_high (a := 0xFFFC) (by decide) (by decide)]
  rfl

/-- Power-on sets every field the invariant reads but the memories and the cartridge, which it keeps. -/
theorem powerOn_inv {s : State} (hcart : s.cart.Inv) (hram : Mem.wf 2048 s.ram = true)
    (hvram : Mem.wf (vramSize s.cart.mirroring) s.vram = true) (hoam : Mem.wf 256 s.ppu.oam = true)
    (hpalette : Mem.wf6 32 s.ppu.palette = true) : (powerOn s).Inv := by
  rw [powerOn_eq]
  obtain ⟨hdot, hline, hcount, -, -, hpicture⟩ := reset_inv.ppu
  exact ⟨reset_inv.cpu, ⟨hdot, hline, hcount, hoam, hpalette, hpicture⟩, reset_inv.apu, hcart, hram, hvram⟩

/-- A new mapper's bank register is 0 (20_memory R247), below any bank count. -/
theorem bankInv_cartOf {n : Nat} {m : Mapper} (h : mapperOf n = some m) {c : CartImage} (hbanks : 1 ≤ c.prgBanks) :
    (cartOf c m).bankInv := by
  unfold mapperOf at h
  split at h <;> simp only [Option.some.injEq, reduceCtorEq] at h <;> subst h
  · trivial
  · exact hbanks
  · exact Nat.lt_of_lt_of_le Nat.zero_lt_one (Nat.le_max_right _ _)

/-- Settles O43: the blank machine by evaluation, an inserted image by `powerOn_inv`. -/
theorem resetMeetsInvariant : Obligations.ResetMeetsInvariant := by
  refine ⟨reset_inv, fun c m s hwf hmapper hram hvram hoam hpalette hprgRam hchrRam => ?_⟩
  simp only [CartImage.wellFormed, Bool.and_eq_true, decide_eq_true_eq] at hwf
  obtain ⟨⟨hbanks, hprg⟩, hchr⟩ := hwf
  obtain ⟨mapper, hm⟩ := Option.ne_none_iff_exists'.mp hmapper
  simp only [insertCartridge, hm]
  exact powerOn_inv ⟨hbanks, hprg, hchr, hprgRam, hchrRam, bankInv_cartOf hm hbanks⟩ hram hvram hoam hpalette

/-- Settles O45: the vector lies in the program space, so its read is two ROM bytes and `openBus`. -/
theorem warmResetState : Obligations.WarmResetState := by
  refine ⟨rfl, fun s => ?_⟩
  have hp : pulledP (putI true s.cpu.p) = ({ flags s.cpu.p with i := true, u := true, b := false } : Flags).pack :=
    eq_pack (by rw [flags_pulledP, flags_putI])
  simp only [Config.resetKind, resetWith, warmReset, putBit_two, hp, read16_high (a := 0xFFFC) (by decide) (by decide)]
  rfl

end Sys2Proof.Claims
end

section
/-! PROOFS. The writers of each register and flag (O34, O35): the rules' lists as one predicate on the CPU before and after,
proved once per access class. -/

namespace Sys2Proof.Claims

open Sys2Proof.Machine

/-- Every register that differs from `c` to `d` names the mnemonic as a writer (10_state R101 to R104). -/
def RegistersWrittenBy (m : Mnemonic) (mode : Mode) (c d : Cpu) : Prop :=
  (d.a ≠ c.a → m ∈ [.lda, .pla, .txa, .tya, .adc, .sbc, .and, .ora, .eor] ∨
    (mode = .accumulator ∧ m ∈ [.asl, .lsr, .rol, .ror])) ∧
  (d.x ≠ c.x → m ∈ [.ldx, .tax, .tsx, .inx, .dex]) ∧
  (d.y ≠ c.y → m ∈ [.ldy, .tay, .iny, .dey]) ∧
  (d.s ≠ c.s → m ∈ [.txs, .pha, .php, .pla, .plp, .jsr, .rts, .brk, .rti])

/-- The writers of Z, which are also those of N (10_state R109, R113). -/
def znWriters : List Mnemonic :=
  [.lda, .ldx, .ldy, .tax, .tay, .txa, .tya, .tsx, .pla, .and, .ora, .eor, .adc, .sbc, .inc, .inx, .iny, .dec, .dex, .dey,
    .asl, .lsr, .rol, .ror, .cmp, .cpx, .cpy, .bit, .plp, .rti]

/-- Every flag that differs from `p` to `q` names the mnemonic as a writer (10_state R107 to R113). -/
def FlagsWrittenBy (m : Mnemonic) (p q : Byte) : Prop :=
  ((flags q).c ≠ (flags p).c → m ∈ [.adc, .sbc, .cmp, .cpx, .cpy, .asl, .lsr, .rol, .ror, .clc, .sec, .plp, .rti]) ∧
  ((flags q).z ≠ (flags p).z → m ∈ znWriters) ∧
  ((flags q).i ≠ (flags p).i → m ∈ [.sei, .cli, .plp, .rti, .brk]) ∧
  ((flags q).d ≠ (flags p).d → m ∈ [.sed, .cld, .plp, .rti]) ∧
  ((flags q).v ≠ (flags p).v → m ∈ [.adc, .sbc, .bit, .clv, .plp, .rti]) ∧
  ((flags q).n ≠ (flags p).n → m ∈ znWriters) ∧
  ((flags q).u ≠ (flags p).u ∨ (flags q).b ≠ (flags p).b →
    m ∈ [.plp, .rti] ∧ (flags q).u = true ∧ (flags q).b = false)

/-- What an instruction does to the CPU is within its writer lists. -/
def Writes (m : Mnemonic) (mode : Mode) (c d : Cpu) : Prop := RegistersWrittenBy m mode c d ∧ FlagsWrittenBy m c.p d.p

theorem RegistersWrittenBy.of_same {m : Mnemonic} {mode : Mode} {c d : Cpu} (ha : d.a = c.a) (hx : d.x = c.x) (hy : d.y = c.y)
    (hs : d.s = c.s) : RegistersWrittenBy m mode c d :=
  ⟨fun h => absurd ha h, fun h => absurd hx h, fun h => absurd hy h, fun h => absurd hs h⟩

theorem FlagsWrittenBy.refl (m : Mnemonic) (p : Byte) : FlagsWrittenBy m p p := by simp [FlagsWrittenBy]

/-- A CPU that keeps its registers and P is within any lists. -/
theorem Writes.of_same {m : Mnemonic} {mode : Mode} {c d : Cpu} (ha : d.a = c.a) (hx : d.x = c.x) (hy : d.y = c.y)
    (hs : d.s = c.s) (hp : d.p = c.p) : Writes m mode c d :=
  ⟨.of_same ha hx hy hs, by rw [hp]; exact .refl m c.p⟩

theorem readOp_writes {m : Mnemonic} {op : Byte → State → State} (h : readOp m = some op) (mode : Mode) (v : Byte) (t : State) :
    Writes m mode t.cpu (op v t).cpu := by
  cases m <;> simp only [readOp, reduceCtorEq, Option.some.injEq] at h <;> subst h <;>
    simp [Writes, RegistersWrittenBy, FlagsWrittenBy, znWriters, loadA, loadX, loadY, andA, oraA, eorA, bitA, adcA, sbcA, cmpA,
      cpxX, cpyY, State.setZN, adcFlags, compareFlags, bitFlags, putZN]

theorem modifyOp_flagsWritten {m : Mnemonic} {f : Byte → Byte → Byte} {g : Byte → Byte → Byte → Byte}
    (h : modifyOp m = some (f, g)) (p v r : Byte) : FlagsWrittenBy m p (g p v r) := by
  cases m <;> simp only [modifyOp, reduceCtorEq, Option.some.injEq, Prod.mk.injEq] at h <;> obtain ⟨rfl, rfl⟩ := h <;>
    simp [FlagsWrittenBy, znWriters, incFlags, aslFlags, lsrFlags, rolFlags, rorFlags, shiftFlags, putZN]

/-- BRK's CPU: three bytes pushed, I set, PC from the vector (44_control R820). -/
theorem brkOp_cpu (t : State) : (brkOp t).cpu =
    { t.cpu with s := t.cpu.s - 1 - 1 - 1, p := putI true t.cpu.p, pc := vectorWord t 0xFFFE } := by
  rw [brkOp, enterInterrupt_eq _ (by decide) (by decide)]
  rfl

theorem impliedOp_writes {m : Mnemonic} {op : State → State} (h : impliedOp m = some op) (mode : Mode) (t : State) :
    Writes m mode t.cpu (op t).cpu := by
  cases m <;> simp only [impliedOp, reduceCtorEq, Option.some.injEq] at h <;> subst h <;>
    simp only [Writes, RegistersWrittenBy, FlagsWrittenBy, znWriters]
  case pha => simp [phaOp, push8_eq]
  case php => simp [phpOp, push8_eq]
  case pla => simp [plaOp, pull8_eq, State.setZN, putZN]
  case plp => simp [plpOp, pull8_eq]
  case rts => simp [rtsOp, pull16_eq]
  case brk => simp [brkOp_cpu]
  case rti => simp [rtiOp, returnFromInterrupt_eq]
  all_goals
    simp [taxOp, tayOp, txaOp, tyaOp, tsxOp, txsOp, inxOp, inyOp, dexOp, deyOp, nopOp, clcOp, secOp, cliOp, seiOp, cldOp, sedOp,
      clvOp, State.setZN, putZN]

/-- Every instruction stays within its writer lists. -/
theorem exec_writes {i : Instr} {s t : State} (hx : exec i s = .next t) : Writes i.mnemonic i.mode s.cpu t.cpu := by
  rcases classes i.mnemonic with ⟨op, h⟩ | ⟨val, h⟩ | ⟨⟨f, g⟩, h⟩ | ⟨op, h⟩ | ⟨c, h⟩ | h | h
  · obtain ⟨ea, me, e⟩ := exec_read h s
    obtain rfl := Host.Outcome.next.inj (hx.symm.trans e)
    exact readOp_writes h i.mode _ { (operandM i s).2 with
      cpu := { s.cpu with ea := ea, modeExtra := me, insnExtra := 0, cycles := spent i s } }
  · obtain ⟨me, e⟩ := exec_write h s
    obtain rfl := Host.Outcome.next.inj (hx.symm.trans e)
    obtain ⟨n, l, q, hc⟩ := (busWrite_keeps (address i s) (val s.cpu) { resolved i s with
      cpu := { s.cpu with ea := address i s, modeExtra := me, insnExtra := 0, cycles := spent i s } }).cpu
    rw [hc]
    exact .of_same rfl rfl rfl rfl rfl
  · by_cases hacc : i.mode = .accumulator
    · obtain rfl := Host.Outcome.next.inj (hx.symm.trans (exec_modifyAcc h hacc s))
      exact ⟨⟨fun _ => .inr ⟨hacc, accumulator_mnemonic hacc⟩, fun h => absurd rfl h, fun h => absurd rfl h, fun h => absurd rfl h⟩,
        modifyOp_flagsWritten h _ _ _⟩
    · obtain ⟨me, e⟩ := exec_modify h hacc s
      obtain rfl := Host.Outcome.next.inj (hx.symm.trans e)
      obtain ⟨n, l, q, hc⟩ := (busWrite_keeps (address i s) (f s.cpu.p (operandM i s).1) { (operandM i s).2 with
        cpu := { s.cpu with ea := address i s, modeExtra := me, insnExtra := 0, cycles := spent i s } }).cpu
      rw [State.setP_cpu, hc]
      exact ⟨.of_same rfl rfl rfl rfl, modifyOp_flagsWritten h _ _ _⟩
  · obtain rfl := Host.Outcome.next.inj (hx.symm.trans (exec_implied h s))
    exact impliedOp_writes h i.mode (s.start i.cycles)
  · obtain rfl := Host.Outcome.next.inj (hx.symm.trans ((exec_branch h s).trans (branchIf_eq _ _ _ _)))
    exact .of_same rfl rfl rfl rfl rfl
  · obtain ⟨ea, me, e⟩ := exec_jmp h s
    obtain rfl := Host.Outcome.next.inj (hx.symm.trans e)
    exact .of_same rfl rfl rfl rfl rfl
  · obtain ⟨a, rfl⟩ := eq_jsr_of_mnemonic h
    obtain rfl := Host.Outcome.next.inj (hx.symm.trans (exec_jsr a s))
    exact ⟨⟨fun h => absurd rfl h, fun h => absurd rfl h, fun h => absurd rfl h, fun _ => by simp [Instr.mnemonic]⟩, .refl _ _⟩

/-- Settles O34, from the writer lists over all access classes. -/
theorem registerWriters : Obligations.RegisterWriters := fun _ _ _ hx => (exec_writes hx).1

/-- Settles O35, from the writer lists over all access classes. -/
theorem flagWriters : Obligations.FlagWriters := fun _ _ _ hx => (exec_writes hx).2

end Sys2Proof.Claims
end

section
/-! PROOFS. No instruction but PHP and BRK reads D (O36): every operation commutes with setting D, or overwrites D itself. -/

namespace Sys2Proof.Claims

open Sys2Proof.Machine

/-! D and the other flags of P. -/

theorem eq_of_flags {p q : Byte} (h : flags p = flags q) : p = q := (eq_pack h).trans (pack_flags q)

theorem putD_flags_d (p : Byte) : putD (flags p).d p = p := eq_of_flags (flags_putD _ p)

@[simp] theorem putD_putD (b d : Bool) (p : Byte) : putD b (putD d p) = putD b p := eq_of_flags (by simp)
@[simp] theorem putN_putD (b d : Bool) (p : Byte) : putN b (putD d p) = putD d (putN b p) := eq_of_flags (by simp)
@[simp] theorem putV_putD (b d : Bool) (p : Byte) : putV b (putD d p) = putD d (putV b p) := eq_of_flags (by simp)
@[simp] theorem putI_putD (b d : Bool) (p : Byte) : putI b (putD d p) = putD d (putI b p) := eq_of_flags (by simp)
@[simp] theorem putZ_putD (b d : Bool) (p : Byte) : putZ b (putD d p) = putD d (putZ b p) := eq_of_flags (by simp)
@[simp] theorem putC_putD (b d : Bool) (p : Byte) : putC b (putD d p) = putD d (putC b p) := eq_of_flags (by simp)

@[simp] theorem flagC_putD (d : Bool) (p : Byte) : flagC (putD d p) = flagC p := congrArg Flags.c (flags_putD d p)
@[simp] theorem flagZ_putD (d : Bool) (p : Byte) : flagZ (putD d p) = flagZ p := congrArg Flags.z (flags_putD d p)
@[simp] theorem flagV_putD (d : Bool) (p : Byte) : flagV (putD d p) = flagV p := congrArg Flags.v (flags_putD d p)
@[simp] theorem flagN_putD (d : Bool) (p : Byte) : flagN (putD d p) = flagN p := congrArg Flags.n (flags_putD d p)

@[simp] theorem putZN_putD (v : Byte) (d : Bool) (p : Byte) : putZN v (putD d p) = putD d (putZN v p) := by
  simp only [putZN, putZ_putD, putN_putD]

/-- The addition is binary whatever D holds (42_logic_arith R606). -/
@[simp] theorem adcFlags_putD (a m : Byte) (d : Bool) (p : Byte) : adcFlags a m (putD d p) = putD d (adcFlags a m p) := by
  simp only [adcFlags, flagC_putD, putC_putD, putV_putD, putZN_putD]

@[simp] theorem compareFlags_putD (r m : Byte) (d : Bool) (p : Byte) :
    compareFlags r m (putD d p) = putD d (compareFlags r m p) := by
  simp only [compareFlags, putC_putD, putZ_putD, putN_putD]

@[simp] theorem bitFlags_putD (a m : Byte) (d : Bool) (p : Byte) : bitFlags a m (putD d p) = putD d (bitFlags a m p) := by
  simp only [bitFlags, putZ_putD, putN_putD, putV_putD]

@[simp] theorem shiftFlags_putD (out : Bool) (r : Byte) (d : Bool) (p : Byte) :
    shiftFlags out r (putD d p) = putD d (shiftFlags out r p) := by
  simp only [shiftFlags, putC_putD, putZN_putD]

/-! Operations on a state whose D is set. -/

/-- The state with D as given. -/
def withD (d : Bool) (s : State) : State := s.setP (putD d s.cpu.p)

@[simp] theorem withD_cpu (d : Bool) (s : State) : (withD d s).cpu = { s.cpu with p := putD d s.cpu.p } := rfl

/-- The statement's way to write it. -/
theorem withD_eq (d : Bool) (s : State) :
    { s with cpu := { s.cpu with p := ({ flags s.cpu.p with d := d } : Flags).pack } } = withD d s := by
  rw [← eq_pack (flags_putD d s.cpu.p)]
  rfl

theorem withD_flags_d (s : State) : withD (flags s.cpu.p).d s = s := by
  rw [withD, putD_flags_d]
  rfl

theorem start_withD (n : Nat) (d : Bool) (s : State) : (withD d s).start n = withD d (s.start n) := rfl

theorem busRead_withD (a : Word) (d : Bool) (s : State) : busRead a (withD d s) = ((busRead a s).1, withD d (busRead a s).2) := by
  simp only [withD, State.setP, busRead_withCpu, busRead_cpu]

theorem read16At_withD (lo hi : Word) (d : Bool) (s : State) :
    read16At lo hi (withD d s) = ((read16At lo hi s).1, withD d (read16At lo hi s).2) := by
  simp only [read16At, busRead_withD]

theorem busWrite_withD (a : Word) (v : Byte) (d : Bool) (s : State) : busWrite a v (withD d s) = withD d (busWrite a v s) := by
  obtain ⟨n, l, q, hc⟩ := (busWrite_keeps a v s).cpu
  have e := busWrite_withRegs a v { s.cpu with p := putD d s.cpu.p } s
  simpa only [withD, State.setP, State.withRegs, Cpu.regsOf, hc] using e

theorem resolver_withD (i : Instr) (d : Bool) (s : State) : resolver i (withD d s) = withD d (resolver i s) := by
  unfold resolver
  cases i.mode
  case indirect => exact congrArg (fun r : Word × State => r.2.setEa r.1) (read16At_withD _ _ d s)
  case indexedIndirectX => exact congrArg (fun r : Word × State => r.2.setEa r.1) (read16At_withD _ _ d s)
  case indirectIndexedY =>
    simp only [resolveIzy, read16Zp, read16At_withD]
    rfl
  all_goals rfl

/-! The operation of each access class. -/

theorem readOp_withD {m : Mnemonic} {op : Byte → State → State} (h : readOp m = some op) (v : Byte) (d : Bool) (t : State) :
    op v (withD d t) = withD d (op v t) := by
  cases m <;> simp only [readOp, reduceCtorEq, Option.some.injEq] at h <;> subst h <;>
    simp [withD, State.setP, State.setA, State.setX, State.setY, State.setZN, loadA, loadX, loadY, andA, oraA, eorA, bitA, adcA, sbcA,
      cmpA, cpxX, cpyY]

theorem storeReg_withD {m : Mnemonic} {val : Cpu → Byte} (h : storeReg m = some val) (d : Bool) (t : State) :
    val (withD d t).cpu = val t.cpu := by
  cases m <;> simp only [storeReg, reduceCtorEq, Option.some.injEq] at h <;> subst h <;> rfl

theorem modifyOp_result_putD {m : Mnemonic} {f : Byte → Byte → Byte} {g : Byte → Byte → Byte → Byte}
    (h : modifyOp m = some (f, g)) (d : Bool) (p v : Byte) : f (putD d p) v = f p v := by
  cases m <;> simp only [modifyOp, reduceCtorEq, Option.some.injEq, Prod.mk.injEq] at h <;> obtain ⟨rfl, rfl⟩ := h <;>
    simp only [incResult, decResult, aslOf, lsrOf, rolOf, rorOf, flagC_putD]

theorem modifyOp_flags_putD {m : Mnemonic} {f : Byte → Byte → Byte} {g : Byte → Byte → Byte → Byte}
    (h : modifyOp m = some (f, g)) (d : Bool) (p v r : Byte) : g (putD d p) v r = putD d (g p v r) := by
  cases m <;> simp only [modifyOp, reduceCtorEq, Option.some.injEq, Prod.mk.injEq] at h <;> obtain ⟨rfl, rfl⟩ := h <;>
    simp only [incFlags, aslFlags, lsrFlags, rolFlags, rorFlags, shiftFlags_putD, putZN_putD]

theorem branchCond_putD {m : Mnemonic} {c : Byte → Bool} (h : branchCond m = some c) (d : Bool) (p : Byte) : c (putD d p) = c p := by
  cases m <;> simp only [branchCond, reduceCtorEq, Option.some.injEq] at h <;> subst h <;> simp

theorem impliedOp_withD {m : Mnemonic} {op : State → State} (h : impliedOp m = some op) (hphp : m ≠ .php) (hbrk : m ≠ .brk)
    (hd : m ∉ [.sed, .cld, .plp, .rti]) (d : Bool) (t : State) : op (withD d t) = withD d (op t) := by
  cases m <;> simp only [impliedOp, reduceCtorEq, Option.some.injEq] at h <;> subst h
  case php => exact absurd rfl hphp
  case brk => exact absurd rfl hbrk
  case sed => exact absurd (by decide) hd
  case cld => exact absurd (by decide) hd
  case plp => exact absurd (by decide) hd
  case rti => exact absurd (by decide) hd
  case pha => simp only [phaOp, push8_eq]; rfl
  case pla => simp [withD, plaOp, pull8_eq, State.setP, State.setA, State.setZN]
  case rts => simp only [rtsOp, pull16_eq]; rfl
  all_goals
    simp [withD, State.setP, State.setA, State.setX, State.setY, State.setS, State.setZN, taxOp, tayOp, txaOp, tyaOp, tsxOp, txsOp,
      inxOp, inyOp, dexOp, deyOp, nopOp, clcOp, secOp, cliOp, seiOp, clvOp]

/-- The four writers of D put a value there that does not depend on the old one. -/
theorem impliedOp_of_writesD {m : Mnemonic} (hd : m ∈ [.sed, .cld, .plp, .rti]) :
    ∃ op, impliedOp m = some op ∧ ∀ d t, op (withD d t) = op t := by
  have hcases : m = .sed ∨ m = .cld ∨ m = .plp ∨ m = .rti := by simpa using hd
  rcases hcases with rfl | rfl | rfl | rfl
  · exact ⟨sedOp, rfl, fun d t => by simp only [sedOp, withD, State.setP, putD_putD]⟩
  · exact ⟨cldOp, rfl, fun d t => by simp only [cldOp, withD, State.setP, putD_putD]⟩
  · exact ⟨plpOp, rfl, fun d t => by simp only [plpOp, pull8_eq, withD, State.setP]⟩
  · exact ⟨rtiOp, rfl, fun d t => by simp only [rtiOp, returnFromInterrupt_eq, withD, State.setP]⟩

/-! Every instruction. -/

theorem exec_withD_of_writesD {i : Instr} (hd : i.mnemonic ∈ [.sed, .cld, .plp, .rti]) (d : Bool) (s : State) :
    exec i (withD d s) = exec i s := by
  obtain ⟨op, h, hop⟩ := impliedOp_of_writesD hd
  rw [exec_implied h, exec_implied h, start_withD, hop]

/-- A result with its next state changed. -/
def mapNext (f : State → State) : Result → Result
  | .next t => .next (f t)
  | .fault r => .fault r
  | .refused r => .refused r

theorem exec_withD {i : Instr} (hphp : i.mnemonic ≠ .php) (hbrk : i.mnemonic ≠ .brk) (hd : i.mnemonic ∉ [.sed, .cld, .plp, .rti])
    (d : Bool) (s : State) : exec i (withD d s) = mapNext (withD d) (exec i s) := by
  rcases classes i.mnemonic with ⟨op, h⟩ | ⟨val, h⟩ | ⟨⟨f, g⟩, h⟩ | ⟨op, h⟩ | ⟨c, h⟩ | h | h
  · by_cases himm : i.mode = .immediate
    · simp only [exec_eq_readImm h himm, readImm, start_withD, readOp_withD h, mapNext]
    · simp only [exec_eq_readMem h himm, readMem, start_withD, resolver_withD, withD_cpu, busRead_withD, readOp_withD h, mapNext]
  · simp only [exec_eq_writeMem h, writeMem, start_withD, resolver_withD, storeReg_withD h, mapNext]
    exact congrArg Host.Outcome.next (busWrite_withD _ _ d _)
  · by_cases hacc : i.mode = .accumulator
    · simp only [exec_modifyAcc h hacc, withD_cpu, modifyOp_result_putD h, modifyOp_flags_putD h]
      rfl
    · simp only [exec_eq_modifyMem h hacc, modifyMem, start_withD, resolver_withD, withD_cpu, busRead_withD,
        modifyOp_result_putD h, modifyOp_flags_putD h, busWrite_withD]
      rfl
  · simp only [exec_implied h, start_withD, impliedOp_withD h hphp hbrk hd, mapNext]
  · simp only [exec_branch h, branchIf_eq, withD_cpu, branchCond_putD h]
    rfl
  · simp only [exec_eq_jump h, jump, start_withD, resolver_withD]
    rfl
  · obtain ⟨a, rfl⟩ := eq_jsr_of_mnemonic h
    simp only [exec_jsr]
    rfl

/-- Settles O36: a writer of D gives one and the same next state, any other instruction commutes with setting D. -/
theorem decimalHasNoEffect : Obligations.DecimalHasNoEffect := by
  intro i s t d hphp hbrk hx
  simp only [withD_eq]
  by_cases hd : i.mnemonic ∈ [.sed, .cld, .plp, .rti]
  · refine ⟨(flags t.cpu.p).d, ?_, fun hn => absurd hd hn, fun _ => rfl⟩
    rw [exec_withD_of_writesD hd, hx, withD_flags_d]
  · refine ⟨d, ?_, fun _ => rfl, fun hn => absurd hn hd⟩
    rw [exec_withD hphp hbrk hd, hx, mapNext]

end Sys2Proof.Claims
end

section
/-! PROOFS. CPU memory and the cartridge's image: what a step, a store and a bus write keep (O41, O38, O39). -/

namespace Sys2Proof.Claims

open Sys2Proof.Machine

/-- Settles O41: the entry or instruction of the step keeps the image, and so do its device cycles. -/
theorem cartridgeIsImmutable : Obligations.CartridgeIsImmutable := by
  intro s t ht
  rcases step_does s with ⟨r, -, hstep⟩ | ⟨u, -, hstep, keeps⟩ | ⟨-, -, -, -, hstep⟩ <;> rw [hstep] at ht
  · cases ht
  · injection ht with ht
    subst ht
    obtain ⟨-, hcart, -⟩ := finishStep_keeps u
    exact (congrArg Cart.image hcart).trans keeps.image
  · cases ht

/-! Reading back a store. -/

theorem memoryAt_low {a : Word} (h : a.toNat ≤ 0x1FFF) (s : State) : memoryAt s a = some (s.ram.read (a.toNat % 0x800)) := by
  have hm : s.isMemory a = true := by simp only [State.isMemory, h, decide_true, Bool.true_or]
  rw [memoryAt, if_pos hm, busRead_low h]

theorem memoryAt_prgRam {a : Word} (h : 0x6000 ≤ a.toNat) (h' : a.toNat ≤ 0x7FFF) {s : State} (hp : s.cart.prgRamPresent = true) :
    memoryAt s a = some (s.cart.prgRam.read (a.toNat - 0x6000)) := by
  have hm : s.isMemory a = true := by simp only [State.isMemory, h, hp, decide_true, Bool.and_self, Bool.or_true]
  rw [memoryAt, if_pos hm, busRead_prgRam h h' hp]

/-- A byte stored in RAM is read at each of its mirrors (20_memory R204, R221). -/
theorem memoryAt_busWrite_mirror {s : State} (hs : s.Inv) {a b : Word} (ha : a.toNat ≤ 0x1FFF) (hb : b.toNat ≤ 0x1FFF)
    (hmirror : a.toNat % 0x800 = b.toNat % 0x800) (v : Byte) : memoryAt (busWrite a v s) b = some v := by
  rw [busWrite_low ha, memoryAt_low hb, hmirror, Mem.read_write_same hs.ram]

/-- A byte stored in present PRG RAM is read at its address (20_memory R221, R246). -/
theorem memoryAt_busWrite_prgRam {s : State} (hs : s.Inv) {a : Word} (h : 0x6000 ≤ a.toNat) (h' : a.toNat ≤ 0x7FFF)
    (hp : s.cart.prgRamPresent = true) (v : Byte) : memoryAt (busWrite a v s) a = some v := by
  obtain ⟨-, -, -, hprgRam, -⟩ := hs.cart
  rw [busWrite_prgRam h h' hp, memoryAt_prgRam h h' (by exact hp), Mem.read_write_same hprgRam]

/-- Settles O38: the mirrors of a RAM byte and the PRG RAM byte read back the store, and `busWrite_memoryAt` frames the rest. -/
theorem readAfterWrite : Obligations.ReadAfterWrite := by
  intro a b v s hs hmem
  split_ifs with h
  · rcases h with ⟨ha, hb, hmirror⟩ | rfl
    · exact memoryAt_busWrite_mirror hs ha hb hmirror v
    · rcases hmem with ha | ⟨ha, ha', hp⟩
      · exact memoryAt_busWrite_mirror hs ha ha rfl v
      · exact memoryAt_busWrite_prgRam hs ha ha' hp v
  · obtain ⟨hmirror, hne⟩ := not_or.mp h
    have hlow : ¬0x8000 ≤ a.toNat := by omega
    have hram : sameRamByte a b = false := by
      rw [Bool.eq_false_iff]
      simpa only [sameRamByte, Bool.and_eq_true, decide_eq_true_eq, beq_iff_eq, and_assoc, ne_eq] using hmirror
    refine busWrite_memoryAt hs a v ?_
    simp only [touches, hram, hlow, beq_eq_false_iff_ne.mpr hne, decide_false, Bool.and_false, Bool.false_and, Bool.or_false]

/-! What a write keeps. -/

/-- A write to absent PRG RAM is logged (20_memory R246). -/
theorem busWrite_noPrgRam {a : Word} (h : 0x6000 ≤ a.toNat) (h' : a.toNat ≤ 0x7FFF) {s : State} (hp : ¬s.cart.prgRamPresent = true)
    (v : Byte) : busWrite a v s = s.addLog (.unmappedWrite a.toNat v) := by
  have h1 : ¬a.toNat ≤ 0x1FFF := by omega
  have h2 : ¬a.toNat ≤ 0x3FFF := by omega
  have h3 : ¬(a.toNat ≤ 0x4013 ∨ a.toNat = 0x4015) := by omega
  have h4 : ¬a.toNat = 0x4014 := by omega
  have h5 : ¬a.toNat = 0x4016 := by omega
  have h6 : ¬a.toNat = 0x4017 := by omega
  have h7 : ¬a.toNat ≤ 0x5FFF := by omega
  have h8 : ¬0x8000 ≤ a.toNat := by omega
  simp only [busWrite, h1, h2, h3, h4, h5, h6, h7, writeProgram, h8, hp, if_false]
  rfl

/-- A write to the program space from 0x6000 on changes PRG RAM, the bank register or the log. -/
theorem busWrite_cart_does {a : Word} (h : 0x6000 ≤ a.toNat) (v : Byte) (s : State) : ∃ m prgRam log, busWrite a v s =
    { s with cart := { s.cart with mapper := m, prgRam := prgRam }, host := { s.host with log := log } } := by
  by_cases hrom : 0x8000 ≤ a.toNat
  · obtain ⟨m, log, e, -⟩ := writeRom_does a.toNat v s
    exact ⟨m, s.cart.prgRam, log, (busWrite_high hrom v s).trans e⟩
  · by_cases hp : s.cart.prgRamPresent = true
    · exact ⟨_, _, _, busWrite_prgRam h (by omega) hp v⟩
    · exact ⟨_, _, _, busWrite_noPrgRam h (by omega) hp v⟩

/-- Between the PPU ports and the program space, a write outside the two addresses that start DMA reads changes the APU, the
controller ports or the log (20_memory R208). -/
theorem busWrite_io_does {a : Word} (h : 0x4000 ≤ a.toNat) (h' : a.toNat ≤ 0x5FFF) (hoam : a ≠ 0x4014) (hdmc : a ≠ 0x4015) (v : Byte)
    (s : State) : ∃ apu pads log, busWrite a v s = { s with apu := apu, pads := pads, host := { s.host with log := log } } := by
  have h1 : ¬a.toNat ≤ 0x1FFF := by omega
  have h2 : ¬a.toNat ≤ 0x3FFF := by omega
  have h3 : ¬a.toNat = 0x4014 := BitVec.toNat_ne.mp hoam
  have h4 : ¬a.toNat = 0x4015 := BitVec.toNat_ne.mp hdmc
  simp only [busWrite, h1, h2, h3, h4, apuRegisterWrite, or_false, if_false]
  split
  · exact ⟨_, _, _, rfl⟩
  split
  · simp only [controllerStrobe]
    split <;> exact ⟨_, _, _, rfl⟩
  split <;> exact ⟨_, _, _, rfl⟩

/-- A write that starts no DMA read leaves `openBus` (20_memory R208, R214). -/
theorem busWrite_openBus {a : Word} (hoam : a ≠ 0x4014) (hdmc : a ≠ 0x4015) (v : Byte) (s : State) :
    (busWrite a v s).openBus = s.openBus := by
  by_cases hram : a.toNat ≤ 0x1FFF
  · rw [busWrite_low hram]
  by_cases hppu : a.toNat ≤ 0x3FFF
  · rw [busWrite_ppuPort (by omega) hppu]
    exact (ppuPortWrite_keeps _ v s).2
  by_cases hio : a.toNat ≤ 0x5FFF
  · obtain ⟨apu, pads, log, e⟩ := busWrite_io_does (by omega) hio hoam hdmc v s
    rw [e]
  · obtain ⟨m, prgRam, log, e⟩ := busWrite_cart_does (a := a) (by omega) v s
    rw [e]

/-- Settles O39: the frame of `busWrite_keeps`, with RAM and `openBus` by the region of the address. -/
theorem writeFrame : Obligations.WriteFrame := by
  intro a v s
  have k := busWrite_keeps a v s
  exact ⟨k.cpu, k.fault, k.image, fun hram => busWrite_ram hram v s, fun hoam hdmc => busWrite_openBus hoam hdmc v s⟩

end Sys2Proof.Claims
end

section
/-! PROOFS. The PPU address space: its mirrors, and what a write leaves at every address (O48). -/

namespace Sys2Proof.Claims

open Sys2Proof.Machine

@[simp] theorem ppuRead_mod (s : State) (a : Nat) : ppuRead s (a % 0x4000) = ppuRead s a := by
  simp only [ppuRead, Nat.mod_mod]

@[simp] theorem ppuWrite_mod (a : Nat) (v : Byte) (s : State) : ppuWrite (a % 0x4000) v s = ppuWrite a v s := by
  simp only [ppuWrite, Nat.mod_mod]

/-- Nametable addresses with one VRAM byte read the same (20_memory R253). -/
theorem ppuRead_congr_nametable {s : State} {a b : Nat} (ha : 0x2000 ≤ a) (ha' : a < 0x3F00) (hb : 0x2000 ≤ b) (hb' : b < 0x3F00)
    (hcell : mapNametable s.cart.mirroring a = mapNametable s.cart.mirroring b) : ppuRead s a = ppuRead s b := by
  rw [ppuRead_nametable s ha ha', ppuRead_nametable s hb hb', hcell]

/-- 0x3000 on mirrors 0x2000 on (20_memory R252). -/
theorem mapNametable_3000 (m : Mirroring) {a : Nat} (h : 0x3000 ≤ a) : mapNametable m a = mapNametable m (a - 0x1000) := by
  have hoff : (a - 0x2000) % 0x1000 = (a - 0x1000 - 0x2000) % 0x1000 := by omega
  simp only [mapNametable, hoff]

/-- The palette repeats every 32 bytes (20_memory R254). -/
theorem ppuRead_palette_mod (s : State) {a : Nat} (h : 0x3F00 ≤ a) (h' : a < 0x4000) : ppuRead s a = ppuRead s (0x3F00 + a % 32) := by
  have hmod : (0x3F00 + a % 32) % 0x20 = a % 0x20 := by omega
  rw [ppuRead_palette s h h', ppuRead_palette s (by omega) (by omega)]
  simp only [paletteIndex, hmod]

/-- The entries 0x10, 0x14, 0x18 and 0x1C are the entries 16 below (20_memory R254). -/
theorem ppuRead_palette_backdrop (s : State) {a : Nat} (h : 0x3F00 ≤ a) (h' : a < 0x4000)
    (hindex : a % 32 = 0x10 ∨ a % 32 = 0x14 ∨ a % 32 = 0x18 ∨ a % 32 = 0x1C) : ppuRead s a = ppuRead s (0x3F00 + a % 16) := by
  have hcell : paletteIndex a = paletteIndex (0x3F00 + a % 16) := by
    simp only [paletteIndex]
    split_ifs <;> omega
  rw [ppuRead_palette s h h', ppuRead_palette s (by omega) (by omega), hcell]

/-! What a write leaves at every address of 14 bits. -/

section Write

variable {s : State} (hs : s.Inv) {a b : Nat} (hb : b < 0x4000) (v : Byte)
include hs hb

/-- A write to CHR RAM is read back at its address; CHR ROM keeps its bytes (20_memory R246). -/
theorem ppuRead_write_pattern (ha : a < 0x2000) : ppuRead (ppuWrite a v s) b =
    if ppuHome s.cart.mirroring b = ppuHome s.cart.mirroring a ∧ s.cart.chrBanks = 0 then v else ppuRead s b := by
  obtain ⟨hregion, -⟩ := ppuHome_region s.cart.mirroring b
  rw [ppuWrite_pattern v s ha, ppuHome_pattern _ ha, writeGraphics]
  split_ifs with hchr hcell hcell
  · obtain ⟨-, -, -, -, hram, -⟩ := hs.cart
    obtain ⟨rfl, -⟩ := hcell
    have hlow : ppuHome s.cart.mirroring b = b := ppuHome_pattern _ (by omega)
    rw [hlow, ppuRead_pattern _ (by omega), Cart.readGraphics, if_pos hchr, Mem.read_write_same hram]
  · by_cases hlow : b < 0x2000
    · obtain ⟨-, -, -, -, hram, -⟩ := hs.cart
      rw [ppuHome_pattern _ hlow] at hcell
      have hne : b ≠ a := fun e => hcell ⟨e, hchr⟩
      rw [ppuRead_pattern _ hlow, ppuRead_pattern _ hlow, Cart.readGraphics, Cart.readGraphics, if_pos hchr, if_pos hchr,
        Mem.read_write_ne hram hne]
    · by_cases htable : b < 0x3F00
      · rw [ppuRead_nametable _ (by omega) htable, ppuRead_nametable _ (by omega) htable]
      · rw [ppuRead_palette _ (by omega) hb, ppuRead_palette _ (by omega) hb]
  · exact absurd hcell.2 hchr
  · rfl

/-- A write to a nametable is read back at its mirrors alone (20_memory R253, R257). -/
theorem ppuRead_write_nametable (ha : 0x2000 ≤ a) (ha' : a < 0x3F00) : ppuRead (ppuWrite a v s) b =
    if ppuHome s.cart.mirroring b = ppuHome s.cart.mirroring a then v else ppuRead s b := by
  obtain ⟨hpat, hpal⟩ := ppuHome_region s.cart.mirroring a
  obtain ⟨hpat', hpal'⟩ := ppuHome_region s.cart.mirroring b
  rw [ppuWrite_nametable v s ha ha']
  by_cases hlow : b < 0x2000
  · rw [ppuRead_pattern _ hlow, ppuRead_pattern _ hlow, if_neg (by omega)]
  by_cases htable : b < 0x3F00
  · rw [ppuRead_nametable _ (by omega) htable, ppuRead_nametable _ (by omega) htable, Mem.read_write hs.vram]
    simp only [mapNametable_eq_iff s.cart.mirroring (Nat.le_of_not_lt hlow) htable ha ha']
  · rw [ppuRead_palette _ (by omega) hb, ppuRead_palette _ (by omega) hb, if_neg (by omega)]

/-- A write to the palette keeps 6 bits and is read back at its mirrors alone (20_memory R254, R255). -/
theorem ppuRead_write_palette (ha : 0x3F00 ≤ a) (ha' : a < 0x4000) : ppuRead (ppuWrite a v s) b =
    if ppuHome s.cart.mirroring b = ppuHome s.cart.mirroring a then v &&& 0x3F else ppuRead s b := by
  obtain ⟨-, hpal⟩ := ppuHome_region s.cart.mirroring a
  obtain ⟨-, hpal'⟩ := ppuHome_region s.cart.mirroring b
  obtain ⟨-, -, -, -, hpalette, -⟩ := hs.ppu
  rw [ppuWrite_palette v s ha ha']
  by_cases hlow : b < 0x2000
  · rw [ppuRead_pattern _ hlow, ppuRead_pattern _ hlow, if_neg (by omega)]
  by_cases htable : b < 0x3F00
  · rw [ppuRead_nametable _ (by omega) htable, ppuRead_nametable _ (by omega) htable, if_neg (by omega)]
  · rw [ppuRead_palette _ (by omega) hb, ppuRead_palette _ (by omega) hb, Mem.read_write6 hpalette]
    simp only [paletteIndex_eq_iff s.cart.mirroring (Nat.le_of_not_lt htable) hb ha ha']

end Write

/-- What every address of the PPU's space reads after a write (20_memory R250 to R257). -/
theorem ppuRead_ppuWrite {s : State} (hs : s.Inv) (a b : Nat) (v : Byte) : ppuRead (ppuWrite a v s) b =
    if ppuHome s.cart.mirroring b = ppuHome s.cart.mirroring a ∧ (0x2000 ≤ a % 0x4000 ∨ s.cart.chrBanks = 0) then
      if 0x3F00 ≤ a % 0x4000 then v &&& 0x3F else v
    else ppuRead s b := by
  rw [← ppuRead_mod s b, ← ppuRead_mod (ppuWrite a v s) b, ← ppuWrite_mod a, ← ppuHome_mod _ a, ← ppuHome_mod _ b]
  have ha : a % 0x4000 < 0x4000 := Nat.mod_lt _ (by decide)
  have hb : b % 0x4000 < 0x4000 := Nat.mod_lt _ (by decide)
  generalize a % 0x4000 = a at ha ⊢
  generalize b % 0x4000 = b at hb ⊢
  by_cases hlow : a < 0x2000
  · have h1 : ¬0x2000 ≤ a := by omega
    have h2 : ¬0x3F00 ≤ a := by omega
    rw [ppuRead_write_pattern hs hb v hlow, if_neg h2]
    simp only [h1, false_or]
  have h1 : 0x2000 ≤ a := Nat.le_of_not_lt hlow
  by_cases htable : a < 0x3F00
  · have h2 : ¬0x3F00 ≤ a := by omega
    rw [ppuRead_write_nametable hs hb v h1 htable, if_neg h2]
    simp only [h1, true_or, and_true]
  · have h2 : 0x3F00 ≤ a := Nat.le_of_not_lt htable
    rw [ppuRead_write_palette hs hb v h2 ha, if_pos h2]
    simp only [h1, true_or, and_true]

/-- Settles O48: the mirrors by the cells they reach, the write by `ppuRead_ppuWrite`. -/
theorem ppuAddressSpace : Obligations.PpuAddressSpace := by
  intro a v s
  refine ⟨ppuRead_mod s a, ppuWrite_mod a v s, fun h h' => ?_, fun k hk => ⟨fun hm => ⟨?_, ?_⟩, fun hm => ⟨?_, ?_⟩, fun hm n hn => ?_⟩,
    fun h h' => ⟨ppuRead_palette_mod s h (by omega), ppuRead_palette_backdrop s h (by omega)⟩, fun hs b => ppuRead_ppuWrite hs a b v⟩
  · exact ppuRead_congr_nametable (by omega) (by omega) (by omega) (by omega) (mapNametable_3000 _ h)
  all_goals
    refine ppuRead_congr_nametable (by omega) (by omega) (by omega) (by omega) ?_
    rw [hm]
    simp only [mapNametable]
    omega

end Sys2Proof.Claims
end

section
/-! PROOFS. Bus reads and the controller ports (O37, O58). -/

namespace Sys2Proof.Claims

open Sys2Proof.Machine

/-! Reads with no side effect. -/

/-- A read outside the five side-effecting kinds of address changes `openBus` and the log, and answers the same again
(20_memory R205). -/
theorem busRead_plain {a : Word} (hppu : ¬(0x2000 ≤ a.toNat ∧ a.toNat ≤ 0x3FFF ∧ (a.toNat % 8 = 2 ∨ a.toNat % 8 = 7)))
    (hio : a ∉ [0x4015, 0x4016, 0x4017]) (s : State) :
    (∃ log, (busRead a s).2 = { s with openBus := (busRead a s).1, host := { s.host with log := log } }) ∧
      (busRead a (busRead a s).2).1 = (busRead a s).1 := by
  by_cases hram : a.toNat ≤ 0x1FFF
  · simp only [busRead_low hram]
    exact ⟨⟨_, rfl⟩, rfl⟩
  by_cases hport : a.toNat ≤ 0x3FFF
  · by_cases hoam : a.toNat % 8 = 4
    · simp only [busRead_ppuPort (by omega) hport, hoam]
      exact ⟨⟨_, rfl⟩, rfl⟩
    · simp only [busRead_writeOnlyPort (by omega) hport (by omega)]
      exact ⟨⟨_, rfl⟩, trivial⟩
  by_cases hreg : a.toNat ≤ 0x4014
  · simp only [busRead_writeOnly (by omega) hreg]
    exact ⟨⟨_, rfl⟩, trivial⟩
  by_cases hfree : a.toNat ≤ 0x5FFF
  · have hmapped : 0x4018 ≤ a.toNat := by
      simp only [List.mem_cons, List.not_mem_nil, or_false, not_or] at hio
      bv_omega
    simp only [busRead_unmapped hmapped hfree]
    exact ⟨⟨_, rfl⟩, rfl⟩
  by_cases hrom : 0x8000 ≤ a.toNat
  · simp only [busRead_high hrom]
    exact ⟨⟨_, rfl⟩, rfl⟩
  have hlo : 0x6000 ≤ a.toNat := by omega
  have hhi : a.toNat ≤ 0x7FFF := by omega
  cases hp : s.cart.prgRamPresent with
  | true =>
    rw [busRead_prgRam hlo hhi hp]
    exact ⟨⟨_, rfl⟩, congrArg Prod.fst (busRead_prgRam hlo hhi hp)⟩
  | false =>
    rw [busRead_noPrgRam hlo hhi hp]
    exact ⟨⟨_, rfl⟩, by rw [busRead_noPrgRam (s := s.addLog _) hlo hhi hp]; rfl⟩

/-! The PPU data port. -/

theorem vaddr_inc (p : Ppu) : p.vaddr + p.inc = BitVec.ofNat 15 (p.vaddr.toNat + (if p.ctrl.getLsbD 2 then 32 else 1)) := by
  unfold Ppu.inc
  split <;> rfl

/-- Behind the palette the read buffer takes the nametable byte of the same low address (61_ppu R1110). -/
theorem ppuDataRead_state (s : State) : (ppuDataRead s).2 = { s with
    ppu := { s.ppu with
      vaddr := BitVec.ofNat 15 (s.ppu.vaddr.toNat + (if s.ppu.ctrl.getLsbD 2 then 32 else 1))
      readBuffer := ppuRead s (if 0x3F00 ≤ s.ppu.vaddr.toNat % 0x4000 then s.ppu.vaddr.toNat % 0x4000 - 0x1000
        else s.ppu.vaddr.toNat) } } := by
  have hbuffer : ∀ n a : Nat, (if 0x3F00 ≤ n then ppuRead s (n - 0x1000) else ppuRead s a) =
      ppuRead s (if 0x3F00 ≤ n then n - 0x1000 else a) := fun n a => by split <;> rfl
  simp only [ppuDataRead, ppuRead_mod, hbuffer, vaddr_inc]

/-! Controllers. -/

/-- `ControllerStrobe` in one equation (20_memory R272). -/
theorem controllerStrobe_pads (v : Byte) (s : State) : (controllerStrobe v s).pads =
    if s.pads.strobe = true ∨ v.getLsbD 0 = true then
      { strobe := v.getLsbD 0, sr0 := s.host.buttons0.pack, sr1 := s.host.buttons1.pack }
    else { s.pads with strobe := v.getLsbD 0 } := by
  simp only [controllerStrobe, Bool.or_eq_true]
  split <;> rfl

@[simp] theorem controllerStrobe_host (v : Byte) (s : State) : (controllerStrobe v s).host = s.host := by
  unfold controllerStrobe
  simp only
  split <;> rfl

theorem padShift_eq (strobe : Bool) (snapshot sr : Byte) : padShift strobe snapshot sr =
    (if strobe then snapshot else sr, if strobe then snapshot else (sr >>> 1) ||| 0x80) := by
  unfold padShift
  split <;> rfl

theorem and_one_eq_bitAt : ∀ v : Byte, v &&& 1 = bitAt 0 (v.getLsbD 0) := by decide +kernel

/-- The byte and the state of a read of 0x4016 (20_memory R273). -/
theorem controllerRead0_eq (s : State) : controllerRead0 s =
    ((s.openBus &&& 0xE0) ||| bitAt 0 ((if s.pads.strobe then s.host.buttons0.pack else s.pads.sr0).getLsbD 0),
      { s with pads := { s.pads with sr0 := if s.pads.strobe then s.host.buttons0.pack else (s.pads.sr0 >>> 1) ||| 0x80 } }) := by
  simp only [controllerRead0, padShift_eq, and_one_eq_bitAt]

/-- The byte and the state of a read of 0x4017 (20_memory R273). -/
theorem controllerRead1_eq (s : State) : controllerRead1 s =
    ((s.openBus &&& 0xE0) ||| bitAt 0 ((if s.pads.strobe then s.host.buttons1.pack else s.pads.sr1).getLsbD 0),
      { s with pads := { s.pads with sr1 := if s.pads.strobe then s.host.buttons1.pack else (s.pads.sr1 >>> 1) ||| 0x80 } }) := by
  simp only [controllerRead1, padShift_eq, and_one_eq_bitAt]

/-- Settles O37: the five side-effecting ports by their equations, every other address by `busRead_plain`. -/
theorem readEffects : Obligations.ReadEffects := by
  intro a s
  refine ⟨fun h h' hk => ?_, fun h h' hk => ?_, ?_, ?_, ?_, fun hppu hio => busRead_plain hppu hio s⟩
  · rw [busRead_ppuPort h h', hk]
    rfl
  · rw [busRead_ppuPort h h', hk]
    exact congrArg (fun t : State => t.setOpenBus (ppuDataRead s).1) (ppuDataRead_state s)
  · rintro rfl
    rfl
  · rintro rfl
    rw [busRead_4016, controllerRead0_eq]
    rfl
  · rintro rfl
    rw [busRead_4017, controllerRead1_eq]
    rfl

/-! A polled register. -/

theorem getLsbD_openBus_or_bitAt (o : Byte) (b : Bool) : ((o &&& 0xE0) ||| bitAt 0 b).getLsbD 0 = b := by
  cases b <;> simp [bitAt]

/-- Bit 0 of a read of 0x4016 with the strobe clear is the register's, and the register shifts in a 1 (20_memory R273). -/
theorem busRead_4016_of_no_strobe {s : State} (h : s.pads.strobe = false) :
    (busRead 0x4016 s).1.getLsbD 0 = s.pads.sr0.getLsbD 0 ∧
      (busRead 0x4016 s).2.pads = { s.pads with sr0 := (s.pads.sr0 >>> 1) ||| 0x80 } := by
  rw [busRead_4016, controllerRead0_eq, h]
  exact ⟨getLsbD_openBus_or_bitAt _ _, rfl⟩

/-- With a 1 shifted in, bit `k` is the old bit `k + 1`, or a 1 from bit 7 on. -/
theorem getLsbD_shiftIn (v : Byte) (k : Nat) :
    (((v >>> 1) ||| 0x80).getLsbD k || decide (8 ≤ k)) = (v.getLsbD (k + 1) || decide (8 ≤ k + 1)) := by
  have htop : (0x80 : Byte).getLsbD k = decide (k = 7) := by
    rw [show (0x80 : Byte) = BitVec.twoPow 8 7 from rfl, BitVec.getLsbD_twoPow]
    simp [eq_comm]
  have hge : decide (8 ≤ k + 1) = (decide (k = 7) || decide (8 ≤ k)) := by
    rw [← Bool.decide_or, decide_eq_decide]
    omega
  rw [BitVec.getLsbD_or, BitVec.getLsbD_ushiftRight, htop, hge, Nat.add_comm 1 k, Bool.or_assoc]

/-- With the strobe clear the `k`-th read gives bit `k` of the register, and 1 past its eight bits (20_memory R273). -/
theorem readPort_of_no_strobe (k : Nat) {s : State} (h : s.pads.strobe = false) :
    readPort k s = (s.pads.sr0.getLsbD k || decide (8 ≤ k)) := by
  induction k generalizing s with
  | zero => simpa [readPort] using (busRead_4016_of_no_strobe h).1
  | succ k ih =>
    obtain ⟨-, hnext⟩ := busRead_4016_of_no_strobe h
    have hstrobe : (busRead 0x4016 s).2.pads.strobe = false := by rw [hnext]; exact h
    rw [readPort, ih hstrobe, hnext]
    exact getLsbD_shiftIn _ k

theorem getLsbD_bitAt {k : Nat} (hk : k < 8) (b : Bool) (j : Nat) : (bitAt k b).getLsbD j = (decide (j = k) && b) := by
  cases b
  · simp [bitAt]
  · rw [bitAt, if_pos rfl, ← BitVec.twoPow_eq, BitVec.getLsbD_twoPow]
    simp [hk, eq_comm]

/-- The packed buttons bit by bit, ones above (20_memory R271). -/
theorem pack_getLsbD (b : Buttons) (k : Nat) : (b.pack.getLsbD k || decide (8 ≤ k)) =
    [b.a, b.b, b.select, b.start, b.up, b.down, b.left, b.right].getD k true := by
  simp only [Buttons.pack, BitVec.getLsbD_or]
  rw [getLsbD_bitAt (by decide), getLsbD_bitAt (by decide), getLsbD_bitAt (by decide), getLsbD_bitAt (by decide),
    getLsbD_bitAt (by decide), getLsbD_bitAt (by decide), getLsbD_bitAt (by decide), getLsbD_bitAt (by decide)]
  by_cases h : k < 8
  · interval_cases k <;> simp
  · have hge : 8 ≤ k := Nat.le_of_not_lt h
    rw [decide_eq_true hge, Bool.or_true, List.getD_eq_default _ _ (by exact hge)]

/-- Settles O58: the strobe and each read by their equations; after the strobe `readPort` walks through the packed buttons. -/
theorem controllerPolling : Obligations.ControllerPolling := by
  intro s
  refine ⟨fun v => ?_, ?_, ?_, ?_, ?_, fun k => ?_⟩
  · rw [busWrite_4016, controllerStrobe_pads]
  · rw [busRead_4016, controllerRead0_eq]
  · rw [busRead_4017, controllerRead1_eq]
  · rw [busRead_4016, controllerRead0_eq]
    rfl
  · rw [busRead_4017, controllerRead1_eq]
    rfl
  · rw [busWrite_4016, busWrite_4016]
    have hpads : (controllerStrobe 0 (controllerStrobe 1 s)).pads =
        { strobe := false, sr0 := s.host.buttons0.pack, sr1 := s.host.buttons1.pack } := by
      simp [controllerStrobe_pads]
    rw [readPort_of_no_strobe k (by rw [hpads]), hpads]
    exact pack_getLsbD s.host.buttons0 k

end Sys2Proof.Claims
end

section
/-! PROOFS. The mapper's writes and the contract they leave (O40). -/

namespace Sys2Proof.Claims

open Sys2Proof.Machine

/-! A state under another mapper. -/

/-- The state with another mapper in its cartridge. -/
def withMapper (m : Mapper) (s : State) : State := { s with cart := { s.cart with mapper := m } }

/-- Where the pattern bytes do not depend on the mapper, no byte of the PPU's space does. -/
theorem ppuRead_withMapper {m : Mapper} {s : State} (hpattern : ∀ g, (withMapper m s).cart.readGraphics g = s.cart.readGraphics g)
    (a : Nat) : ppuRead (withMapper m s) a = ppuRead s a := by
  simp only [ppuRead, hpattern]
  rfl

theorem ppuPortRead_withMapper {m : Mapper} {s : State}
    (hpattern : ∀ g, (withMapper m s).cart.readGraphics g = s.cart.readGraphics g) (port : Nat) :
    (ppuPortRead port (withMapper m s)).1 = (ppuPortRead port s).1 := by
  unfold ppuPortRead
  split
  · rfl
  · rfl
  · simp only [ppuDataRead, ppuRead_withMapper hpattern]
    rfl
  · rfl

/-- Below the program ROM a read meets the mapper only in the pattern bytes, through the PPU's data port. -/
theorem busRead_withMapper {m : Mapper} {s : State} (hpattern : ∀ g, (withMapper m s).cart.readGraphics g = s.cart.readGraphics g)
    {a : Word} (h : a.toNat < 0x8000) : (busRead a (withMapper m s)).1 = (busRead a s).1 := by
  have hrom : ¬0x8000 ≤ a.toNat := by omega
  have hram : (withMapper m s).cart.prgRamPresent = s.cart.prgRamPresent := rfl
  simp only [busRead, busReadDevice, readProgram, hrom, hram, if_false]
  split
  · rfl
  split
  · exact ppuPortRead_withMapper hpattern _
  · split_ifs <;> rfl

theorem ppuWrite_withMapper (a : Nat) (v : Byte) (m : Mapper) (s : State) :
    ppuWrite a v (withMapper m s) = withMapper m (ppuWrite a v s) := by
  have hbanks : (withMapper m s).cart.chrBanks = s.cart.chrBanks := rfl
  simp only [ppuWrite, writeGraphics, hbanks]
  split_ifs <;> rfl

theorem ppuPortWrite_withMapper (port : Nat) (v : Byte) (m : Mapper) (s : State) :
    ppuPortWrite port v (withMapper m s) = withMapper m (ppuPortWrite port v s) := by
  unfold ppuPortWrite
  split
  · rfl
  · rfl
  · rfl
  · rfl
  · rfl
  · rfl
  · simp only [ppuDataWrite, ppuWrite_withMapper]
    rfl
  · rfl

/-- Below the program ROM a write that starts no DMA read neither reads the mapper nor changes it. -/
theorem busWrite_withMapper {a : Word} (h : a.toNat < 0x8000) (hoam : a ≠ 0x4014) (hdmc : a ≠ 0x4015) (v : Byte) (m : Mapper)
    (s : State) : busWrite a v (withMapper m s) = withMapper m (busWrite a v s) := by
  have hoam' : ¬a.toNat = 0x4014 := BitVec.toNat_ne.mp hoam
  have hdmc' : ¬a.toNat = 0x4015 := BitVec.toNat_ne.mp hdmc
  have hrom : ¬0x8000 ≤ a.toNat := by omega
  have hram : (withMapper m s).cart.prgRamPresent = s.cart.prgRamPresent := rfl
  have hpads : (withMapper m s).pads = s.pads := rfl
  simp only [busWrite, ppuPortWrite_withMapper, apuRegisterWrite, controllerStrobe, writeProgram, hoam', hdmc', hrom, hram, hpads,
    if_false]
  split_ifs <;> rfl

/-! The bank registers. -/

theorem toNat_ofNat_mod (v : Byte) (n : Nat) : (BitVec.ofNat 8 (v.toNat % n)).toNat = v.toNat % n := by
  rw [BitVec.toNat_ofNat, Nat.mod_eq_of_lt (Nat.lt_of_le_of_lt (Nat.mod_le _ _) v.isLt)]

theorem writeRom_uxrom {s : State} {bank : Byte} (h : s.cart.mapper = .uxrom bank) (a : Nat) (v : Byte) :
    writeRom a v s = withMapper (.uxrom (BitVec.ofNat 8 (v.toNat % s.cart.prgBanks))) s := by
  simp only [writeRom, h, withMapper]

theorem writeRom_cnrom {s : State} {bank : Byte} (h : s.cart.mapper = .cnrom bank) (a : Nat) (v : Byte) :
    writeRom a v s = withMapper (.cnrom (BitVec.ofNat 8 (v.toNat % max s.cart.chrBanks 1))) s := by
  simp only [writeRom, h, withMapper]

/-- Variant 2's switched window (20_memory R244). -/
theorem prgByte_uxrom_low {c : Cart} {bank : Byte} (h : c.mapper = .uxrom bank) {a : Nat} (ha : a ≤ 0xBFFF) :
    c.prgByte a = c.prg.read (bank.toNat * 16384 + (a - 0x8000)) := by
  simp only [Cart.prgByte, h, ha, if_true]

/-- Variant 2's fixed window (20_memory R244). -/
theorem prgByte_uxrom_high {c : Cart} {bank : Byte} (h : c.mapper = .uxrom bank) {a : Nat} (ha : 0xC000 ≤ a) :
    c.prgByte a = c.prg.read ((c.prgBanks - 1) * 16384 + (a - 0xC000)) := by
  have hlow : ¬a ≤ 0xBFFF := by omega
  simp only [Cart.prgByte, h, hlow, if_false]

theorem readGraphics_cnrom {c : Cart} {bank : Byte} (h : c.mapper = .cnrom bank) (g : Nat) :
    c.readGraphics g = if c.chrBanks = 0 then c.chrRam.read g else c.chr.read (bank.toNat * 8192 + g) := by
  simp only [Cart.readGraphics, h]

/-- Variant 2's pattern bytes are variant 0's (20_memory R244). -/
theorem readGraphics_withMapper_nrom {s : State} {bank : Byte} (h : s.cart.mapper = .uxrom bank) (g : Nat) :
    (withMapper .nrom s).cart.readGraphics g = s.cart.readGraphics g := by
  simp only [Cart.readGraphics, h]
  rfl

/-- Variant 3's program bytes are variant 0's (20_memory R245). -/
theorem prgByte_withMapper_nrom {s : State} {bank : Byte} (h : s.cart.mapper = .cnrom bank) (a : Nat) :
    (withMapper .nrom s).cart.prgByte a = s.cart.prgByte a := by
  simp only [Cart.prgByte, h]
  rfl

/-- Settles O40: each variant's bank register and windows by their equations, the rest of the contract by `withMapper`. -/
theorem mapperWrites : Obligations.MapperWrites := by
  intro a b v s ha
  have hwrite := busWrite_high ha v s
  refine ⟨fun hm => ?_, fun g hg hchr => ?_, fun bank hm hbanks => ?_, fun bank hm => ?_⟩
  · rw [hwrite, writeRom, hm]
    rfl
  · rw [ppuWrite_pattern v s (by omega), writeGraphics, if_neg hchr]
    rfl
  · rw [writeRom_uxrom hm] at hwrite
    have hpattern := readGraphics_withMapper_nrom hm
    refine ⟨⟨_, toNat_ofNat_mod _ _, hwrite⟩, fun hb hb' => ?_, fun hb => ?_, fun hb => (busRead_withMapper hpattern hb).symm,
      fun hb hoam hdmc => ?_, fun g => (hpattern g).symm⟩
    · rw [hwrite, busRead_high hb, prgByte_uxrom_low rfl hb', toNat_ofNat_mod]
      rfl
    · rw [hwrite, busRead_high (by omega), prgByte_uxrom_high rfl hb]
      rfl
    · exact busWrite_withMapper hb hoam hdmc v s.cart.mapper (withMapper .nrom s)
  · rw [writeRom_cnrom hm] at hwrite
    refine ⟨⟨_, toNat_ofNat_mod _ _, hwrite⟩, fun g _ => ?_, fun hb => ?_⟩
    · rw [hwrite, readGraphics_cnrom rfl, toNat_ofNat_mod]
      rfl
    · rw [busRead_high hb, busRead_high hb]
      exact (prgByte_withMapper_nrom hm _).symm

end Sys2Proof.Claims
end

section
/-! PROOFS. The decoder and the encoder (O1 to O4): what an instruction's opcode byte selects and how the bytes after it are laid
out, said once for every instruction; and the fatal opcode (O7). -/

namespace Sys2Proof.Claims

open Sys2Proof.Machine

/-! The formats. -/

/-- The three formats (30_encoding R301): the form the opcode byte `op` selects, an instruction of it, and where the operand of
every instruction of the form lies. -/
inductive Format (op : Byte) : Form → Instr → Prop
  | f1 {i : Instr} (hbytes : encode i = [op]) (hlen : i.length = 1) : Format op (.one i) i
  | f2 {mk : Byte → Instr} (b : Byte) (hbytes : ∀ v, encode (mk v) = [op, v]) (hlen : ∀ v, (mk v).length = 2)
      (hop : ∀ v, (mk v).operand = v.toNat) : Format op (.two mk) (mk b)
  | f3 {mk : Word → Instr} (a : Word) (hbytes : ∀ w, encode (mk w) = [op, loByte w, hiByte w]) (hlen : ∀ w, (mk w).length = 3)
      (hop : ∀ w, (mk w).operand = w.toNat) : Format op (.three mk) (mk a)

/-- The opcode map and the encoder agree, constructor by constructor: the map's form at the opcode byte picks the format, whose
parts are entries of the two tables. -/
theorem exists_format (i : Instr) : ∃ f, form (opcodeOf i) = some f ∧ Format (opcodeOf i) f i := by
  cases i <;>
    simp only [opcodeOf, encode, List.headD_cons] <;>
    exact ⟨_, rfl, by constructor <;> intros <;> rfl⟩

/-- Every assigned byte of the map is the opcode byte of an instruction, the one with operand 0. -/
theorem exists_opcodeOf_eq {op : Byte} {f : Form} (h : form op = some f) : ∃ i, opcodeOf i = op := by
  have key : ∀ op : Byte, form op = none ∨ (decodeTableWord 8 op.toNat).map opcodeOf = some op := by decide +kernel
  rcases key op with hnone | hsome
  · rw [hnone] at h
    cases h
  · obtain ⟨i, -, hi⟩ := Option.map_eq_some_iff.mp hsome
    exact ⟨i, hi⟩

/-- The format of an assigned byte. -/
theorem format_of_form {op : Byte} {f : Form} (h : form op = some f) : ∃ i, Format op f i := by
  obtain ⟨i, rfl⟩ := exists_opcodeOf_eq h
  obtain ⟨g, hg, hfmt⟩ := exists_format i
  rw [h, Option.some.injEq] at hg
  exact ⟨i, hg ▸ hfmt⟩

/-! The decoder, one equation per format. -/

theorem decode_one {op : Byte} {i : Instr} (hf : form op = some (.one i)) (rest : List Byte) :
    decode (op :: rest) = .ok (i, rest) := by
  simp only [decode, hf]

theorem decode_two {op : Byte} {mk : Byte → Instr} (hf : form op = some (.two mk)) (b : Byte) (rest : List Byte) :
    decode (op :: b :: rest) = .ok (mk b, rest) := by
  simp only [decode, hf]

theorem decode_three {op : Byte} {mk : Word → Instr} (hf : form op = some (.three mk)) (lo hi : Byte) (rest : List Byte) :
    decode (op :: lo :: hi :: rest) = .ok (mk (mkWord hi lo), rest) := by
  simp only [decode, hf, mkWord]

/-- Settles O1: the format of the instruction, form by form. -/
theorem decodeOfEncode : Obligations.DecodeOfEncode := by
  intro i rest
  obtain ⟨f, hf, hfmt⟩ := exists_format i
  generalize opcodeOf i = op at hf hfmt
  cases hfmt with
  | f1 hbytes =>
    rw [hbytes]
    exact decode_one hf rest
  | f2 b hbytes =>
    rw [hbytes]
    exact decode_two hf b rest
  | f3 a hbytes =>
    have h := decode_three hf (loByte a) (hiByte a) rest
    rw [mkWord_bytes] at h
    rw [hbytes]
    exact h

@[simp] theorem hiByte_mkWord (hi lo : Byte) : hiByte (mkWord hi lo) = hi := ((mkWord_eq_iff hi lo _).mp rfl).1.symm

@[simp] theorem loByte_mkWord (hi lo : Byte) : loByte (mkWord hi lo) = lo := ((mkWord_eq_iff hi lo _).mp rfl).2.symm

/-- Settles O2: the format of the opcode byte at the head; where the bytes end too early nothing is decoded. -/
theorem encodeOfDecode : Obligations.EncodeOfDecode := by
  intro bytes rest i h
  match bytes with
  | [] => cases h
  | op :: tail =>
    cases hf : form op with
    | none => simp only [decode, hf, reduceCtorEq] at h
    | some f =>
      obtain ⟨_, hfmt⟩ := format_of_form hf
      cases hfmt with
      | f1 hbytes =>
        cases (decode_one hf tail).symm.trans h
        rw [hbytes]
        rfl
      | f2 _ hbytes =>
        match tail with
        | [] => simp only [decode, hf, reduceCtorEq] at h
        | b :: tail =>
          cases (decode_two hf b tail).symm.trans h
          rw [hbytes]
          rfl
      | f3 _ hbytes =>
        match tail with
        | [] | [_] => simp only [decode, hf, reduceCtorEq] at h
        | lo :: hi :: tail =>
          cases (decode_three hf lo hi tail).symm.trans h
          rw [hbytes, loByte_mkWord, hiByte_mkWord]
          rfl

/-- The mnemonic and the mode of an instruction are those of its opcode byte with operand 0. -/
theorem decodeTableWord_opcodeOf (i : Instr) : (decodeTableWord 8 (opcodeOf i).toNat).map (fun j => (j.mnemonic, j.mode)) =
    some (i.mnemonic, i.mode) := by
  cases i <;> simp only [opcodeOf, encode, List.headD_cons] <;> rfl

theorem loByte_eq_ofNat (w : Word) : loByte w = BitVec.ofNat 8 w.toNat := by simp [← BitVec.toNat_inj]

theorem hiByte_eq_ofNat (w : Word) : hiByte w = BitVec.ofNat 8 (w.toNat / 256) := by
  rw [← BitVec.toNat_inj, hiByte_toNat, BitVec.toNat_ofNat]
  omega

/-- Settles O3: the bytes by the format, the length by the mode, and the form by the map's entry at the opcode byte. -/
theorem opcodeSelectsForm : Obligations.OpcodeSelectsForm := by
  refine ⟨fun i => ?_, fun i => ?_, fun i j h => ?_⟩
  · obtain ⟨f, -, hfmt⟩ := exists_format i
    generalize opcodeOf i = op at hfmt
    cases hfmt with
    | f1 hbytes hlen => rw [hbytes, hlen]; rfl
    | f2 b hbytes hlen hop => simp [hbytes, hlen, hop]
    | f3 a hbytes hlen hop => simp [hbytes, hlen, hop, List.range_succ, loByte_eq_ofNat, hiByte_eq_ofNat]
  · unfold Instr.length
    cases i.mode <;> rfl
  · have hrows := decodeTableWord_opcodeOf i
    rw [h, decodeTableWord_opcodeOf j, Option.some.injEq, Prod.mk.injEq] at hrows
    obtain ⟨hmnemonic, hmode⟩ := hrows
    exact ⟨hmnemonic.symm, hmode.symm, congrArg Mode.length hmode.symm⟩

/-! The fatal opcode (30_encoding R306, 60_exceptions R1031). -/

theorem form_eq_none_iff : ∀ op : Byte, form op = none ↔ op ∈ unassigned := by decide +kernel

/-- The IRQ input is low or masked, so the poll takes no IRQ (60_exceptions R1010, R1012). -/
theorem takesIrq_of_runsInstruction {s : State} (h : runsInstruction s) : takesIrq s = false := by
  obtain ⟨-, -, hline | hmask⟩ := h
  · simp only [takesIrq, irqAsserted, Config.irqTrigger, hline, Bool.false_and]
  · have hi : flagI s.cpu.p = true := hmask
    simp only [takesIrq, hi, Bool.not_true, Bool.and_false]

theorem executeInstruction_of_form_none {s : State} (h : form (busRead s.cpu.pc s).1 = none) : executeInstruction s =
    raiseFatal (.unimplementedOpcode (busRead s.cpu.pc s).1 s.cpu.pc) (fetchOpcode s).2 := by
  have hop : form (fetchOpcode s).1 = none := h
  simp only [executeInstruction, hop]
  rfl

/-- A step on an unassigned byte: the stall, the opcode fetch, and the fatal condition (60_exceptions R1031). -/
theorem step_of_form_none {s : State} (hs : runsInstruction s) (h : form (busRead s.cpu.pc (drainStall s)).1 = none) :
    step s = raiseFatal (.unimplementedOpcode (busRead s.cpu.pc (drainStall s)).1 s.cpu.pc) (fetchOpcode (drainStall s)).2 := by
  have ⟨hfault, hnmi, _⟩ := hs
  rw [step_instr hfault hnmi (takesIrq_of_runsInstruction hs), executeInstruction_of_form_none (s := drainStall s) h]
  rfl

/-- Settles O7: the map's empty places by evaluation; the fault's state is the opcode fetch's, but for the scratch `opcode`. -/
theorem unassignedOpcodeIsFatal : Obligations.UnassignedOpcodeIsFatal := by
  refine ⟨form_eq_none_iff, rfl, fun s hs hop => ?_⟩
  have hstep := step_of_form_none hs ((form_eq_none_iff _).mpr hop)
  have htotal : (busRead s.cpu.pc (drainStall s)).2.cpu.totalCycles = s.cpu.totalCycles := by
    rw [busRead_cpu]
    rfl
  exact ⟨_, hstep, rfl, rfl, rfl, htotal⟩

/-- Settles O4: the decoder evaluated on each word. -/
theorem sampleWords : Obligations.SampleWords := by
  unfold Obligations.SampleWords
  decide +kernel

end Sys2Proof.Claims
end

section
/-! SUPPORT. An instruction rule's encoding table as a check of the opcode map, for every family of instructions. -/

namespace Sys2Proof.Claims

open Sys2Proof.Machine

/-- The mnemonic and the row the opcode map gives a byte. -/
def rowAt (op : Byte) : Option (Mnemonic × Row) := (decodeTableWord 8 op.toNat).map fun i => (i.mnemonic, rowOf i)

/-- An instruction's row depends on its opcode byte alone (30_encoding R301). -/
theorem rowAt_opcodeOf (i : Instr) : rowAt (opcodeOf i) = some (i.mnemonic, rowOf i) := by
  cases i <;> simp only [opcodeOf, encode, List.headD_cons] <;> rfl

/-- A table is a mnemonic's encoding when the opcode map holds each of its rows, and holds no other row of the mnemonic. -/
theorem encodes_of_rowAt {m : Mnemonic} {rows : List Row}
    (h : (∀ r ∈ rows, rowAt r.opcode = some (m, r)) ∧ ∀ op : Byte, ∀ e ∈ rowAt op, e.1 = m → e.2 ∈ rows) : Encodes m rows := by
  obtain ⟨hrows, honly⟩ := h
  exact ⟨fun i hi => honly _ _ (rowAt_opcodeOf i) hi, hrows⟩

end Sys2Proof.Claims
end

section
/-! PROOFS. Loads and stores (O11, O12): each is its access class's closed form under its own operation or register. -/

namespace Sys2Proof.Claims

open Sys2Proof.Machine

/-- Settles O11: the tables by the opcode map, the effect by `completes_read`, where a load's `putZN` is the statement's `znOf`. -/
theorem loadInstructions : Obligations.LoadInstructions := by
  refine ⟨encodes_of_rowAt (by decide +kernel), encodes_of_rowAt (by decide +kernel), encodes_of_rowAt (by decide +kernel),
    fun i s => ?_⟩
  rw [← putZN_eq]
  refine ⟨fun hlda => ?_, fun hldx => ?_, fun hldy => ?_⟩
  · exact completes_read (op := loadA) (congrArg readOp hlda) s _ fun _ _ => rfl
  · exact completes_read (op := loadX) (congrArg readOp hldx) s _ fun _ _ => rfl
  · exact completes_read (op := loadY) (congrArg readOp hldy) s _ fun _ _ => rfl

/-- Settles O12: the tables by the opcode map, the store and its frame by `completes_write`. -/
theorem storeInstructions : Obligations.StoreInstructions := by
  refine ⟨encodes_of_rowAt (by decide +kernel), encodes_of_rowAt (by decide +kernel), encodes_of_rowAt (by decide +kernel),
    fun i s => ⟨fun hsta => ?_, fun hstx => ?_, fun hsty => ?_⟩⟩
  · exact completes_write (val := Cpu.a) (congrArg storeReg hsta) s
  · exact completes_write (val := Cpu.x) (congrArg storeReg hstx) s
  · exact completes_write (val := Cpu.y) (congrArg storeReg hsty) s

end Sys2Proof.Claims
end

section
/-! SUPPORT. Implied instructions by the cycles a statement names, `spent`, and a push by the byte it stores. -/

namespace Sys2Proof.Claims

open Sys2Proof.Machine

/-- An implied instruction's operation starts with all its cycles counted. -/
theorem implied_start {i : Instr} {op : State → State} (h : impliedOp i.mnemonic = some op) (s : State) :
    s.start i.cycles = { s with cpu := { s.cpu with modeExtra := 0, insnExtra := 0, cycles := spent i s } } := by
  rw [implied_spent h]
  rfl

/-- `completes_implied` from the state whose cycles are already `spent`, the name the statements give the count. -/
theorem completes_implied_spent {i : Instr} {op : State → State} (h : impliedOp i.mnemonic = some op) (s e : State)
    (hv : visible (op { s with cpu := { s.cpu with modeExtra := 0, insnExtra := 0, cycles := spent i s } }) = visible e)
    (hr : e.ram = s.ram) : CompletesQuietly i s e := by
  rw [← implied_start h] at hv
  have hram : (visible (op (s.start i.cycles))).ram = (visible e).ram := congrArg State.ram hv
  exact completes_implied h s e hv (hram.trans hr)

/-- An implied instruction that pushes one byte completes with that byte at 0x0100 + S, every other byte kept. -/
theorem completes_push {i : Instr} {op : State → State} (h : impliedOp i.mnemonic = some op) (s : State) (v : Byte)
    (hop : op (s.start i.cycles) = push8 v (s.start i.cycles)) :
    CompletesPushing i 1 s { s with
      ram := s.ram.write (0x100 + s.cpu.s.toNat) v
      cpu := { s.cpu with s := s.cpu.s - 1, cycles := spent i s } } := by
  rw [push8_eq, implied_start h] at hop
  refine ⟨_, exec_implied h s, ?_, fun hs => ?_⟩
  · rw [implied_start h, hop]
    rfl
  · rw [implied_start h, hop]
    exact pushKept_of hs [v] rfl rfl rfl rfl

end Sys2Proof.Claims
end

section
/-! PROOFS. Register transfers and the stack (O13, O14, O15): each is its operation on the state with its cycles spent. -/

namespace Sys2Proof.Claims

open Sys2Proof.Machine

/-- Settles O13: the tables by the opcode map; a transfer's operation is the statement's update, its `putZN` being `znOf`. -/
theorem transferInstructions : Obligations.TransferInstructions := by
  refine ⟨encodes_of_rowAt (by decide +kernel), encodes_of_rowAt (by decide +kernel), encodes_of_rowAt (by decide +kernel),
    encodes_of_rowAt (by decide +kernel), encodes_of_rowAt (by decide +kernel), encodes_of_rowAt (by decide +kernel), fun i s => ?_⟩
  simp only [← putZN_eq]
  refine ⟨fun htax => ?_, fun htay => ?_, fun htxa => ?_, fun htya => ?_, fun htsx => ?_, fun htxs => ?_⟩
  · exact completes_implied_spent (op := taxOp) (congrArg impliedOp htax) s _ rfl rfl
  · exact completes_implied_spent (op := tayOp) (congrArg impliedOp htay) s _ rfl rfl
  · exact completes_implied_spent (op := txaOp) (congrArg impliedOp htxa) s _ rfl rfl
  · exact completes_implied_spent (op := tyaOp) (congrArg impliedOp htya) s _ rfl rfl
  · exact completes_implied_spent (op := tsxOp) (congrArg impliedOp htsx) s _ rfl rfl
  · exact completes_implied_spent (op := txsOp) (congrArg impliedOp htxs) s _ rfl rfl

/-- Settles O14: the tables by the opcode map, the stored byte and the frame by `completes_push`. -/
theorem pushInstructions : Obligations.PushInstructions := by
  refine ⟨encodes_of_rowAt (by decide +kernel), encodes_of_rowAt (by decide +kernel), fun i s => ⟨fun hpha => ?_, fun hphp => ?_⟩⟩
  · exact completes_push (op := phaOp) (congrArg impliedOp hpha) s s.cpu.a rfl
  · exact completes_push (op := phpOp) (congrArg impliedOp hphp) s (pushedBreak s.cpu.p) rfl

/-- Settles O15: the tables by the opcode map; `pull8_eq` gives the byte above S that each pull stores. -/
theorem pullInstructions : Obligations.PullInstructions := by
  refine ⟨encodes_of_rowAt (by decide +kernel), encodes_of_rowAt (by decide +kernel), fun i s => ?_⟩
  simp only [← putZN_eq]
  refine ⟨fun hpla => ?_, fun hplp => ?_⟩
  · exact completes_implied_spent (op := plaOp) (congrArg impliedOp hpla) s _ (by simp only [plaOp, pull8_eq]; rfl) rfl
  · exact completes_implied_spent (op := plpOp) (congrArg impliedOp hplp) s _ (by simp only [plpOp, pull8_eq]; rfl) rfl

end Sys2Proof.Claims
end

section
/-! SUPPORT. The arithmetic of ADC, SBC, BIT and Compare: each P the model computes is the statements' P, and its carry and overflow
are those of the exact integer sum or difference. -/

namespace Sys2Proof.Claims

open Sys2Proof.Machine

theorem bitFlags_eq (a m p : Byte) :
    bitFlags a m p = ({ flags p with n := m.getLsbD 7, v := m.getLsbD 6, z := a &&& m == 0 } : Flags).pack :=
  eq_pack (by simp only [bitFlags, flags_putV, flags_putN, flags_putZ])

theorem compareFlags_eq (r m p : Byte) : compareFlags r m p = comparedP r m p :=
  eq_pack (by simp only [compareFlags, flags_putN, flags_putZ, flags_putC]; rfl)

/-- The flags of P after an addition, one by one. -/
theorem flags_adcFlags (a m p : Byte) :
    let r : Byte := BitVec.ofNat 8 (adcSum a m (flagC p))
    flags (adcFlags a m p) =
      { flags p with
        n := r.getLsbD 7, v := adcOverflow a m r, z := r == 0, c := decide (0xFF < adcSum a m (flagC p)) } := by
  simp only [adcFlags, putZN, flags_putN, flags_putZ, flags_putV, flags_putC]

theorem getLsbD_seven_eq_and_ne_zero : ∀ v : Byte, v.getLsbD 7 = (v &&& 0x80 != 0) := by decide +kernel

/-- The statements' addition is the model's. -/
theorem addWithCarry_eq (a m p : Byte) :
    addWithCarry a m p = (BitVec.ofNat 8 (adcSum a m (flagC p)), adcFlags a m p) := by
  rw [eq_pack (flags_adcFlags a m p), adcOverflow, getLsbD_seven_eq_and_ne_zero (_ &&& _)]
  rfl

/-! The complemented operand (42_logic_arith R607). -/

theorem toNat_xor_ff (m : Byte) : (m ^^^ 0xFF).toNat = 255 - m.toNat := by
  rw [show m ^^^ 0xFF = ~~~m from BitVec.xor_allOnes, BitVec.toNat_not]

theorem toInt_xor_ff (m : Byte) : (m ^^^ 0xFF).toInt = -m.toInt - 1 := by
  have hm := m.isLt
  simp only [BitVec.toInt_eq_toNat_cond, toNat_xor_ff]
  split_ifs <;> omega

/-- The sum with the complemented operand is the difference, 0x100 above it. -/
theorem adcSum_xor_ff (a m : Byte) (c : Bool) :
    (adcSum a (m ^^^ 0xFF) c : Int) = (a.toNat : Int) - m.toNat - (1 - c.toNat) + 0x100 := by
  have hm := m.isLt
  rw [adcSum, toNat_xor_ff]
  omega

theorem ofNat_adcSum_xor_ff (a m : Byte) (c : Bool) :
    BitVec.ofNat 8 (adcSum a (m ^^^ 0xFF) c) = BitVec.ofInt 8 ((a.toNat : Int) - m.toNat - (1 - c.toNat)) := by
  have hsum := adcSum_xor_ff a m c
  apply BitVec.eq_of_toNat_eq
  rw [BitVec.toNat_ofNat, BitVec.toNat_ofInt]
  omega

/-- C after a subtraction says that nothing was borrowed. -/
theorem lt_adcSum_xor_ff_iff (a m : Byte) (c : Bool) :
    0xFF < adcSum a (m ^^^ 0xFF) c ↔ m.toNat + (1 - c.toNat) ≤ a.toNat := by
  have hsum := adcSum_xor_ff a m c
  have hc := c.toNat_le
  omega

/-! Signed overflow (42_logic_arith R600). -/

theorem adcOverflow_iff_sign (a m r : Byte) :
    adcOverflow a m r = true ↔ (0x80 ≤ a.toNat ↔ 0x80 ≤ m.toNat) ∧ ¬(0x80 ≤ a.toNat ↔ 0x80 ≤ r.toNat) := by
  have hsign (v : Byte) : v.getLsbD 7 = decide (0x80 ≤ v.toNat) := v.msb_eq_decide
  have hbits : adcOverflow a m r = (!(a.getLsbD 7 ^^ m.getLsbD 7) && (a.getLsbD 7 ^^ r.getLsbD 7)) := by simp [adcOverflow]
  rw [hbits, hsign, hsign, hsign]
  by_cases ha : 0x80 ≤ a.toNat <;> simp [ha]

/-- Operands of one sign give a result of the other exactly when the exact signed sum leaves the byte's range. -/
theorem adcOverflow_adcSum_iff (a m : Byte) (c : Bool) :
    adcOverflow a m (BitVec.ofNat 8 (adcSum a m c)) = true ↔
      (a.toInt + m.toInt + c.toNat < -128 ∨ 127 < a.toInt + m.toInt + c.toNat) := by
  have ha := a.isLt
  have hm := m.isLt
  have hc := c.toNat_le
  rw [adcOverflow_iff_sign, BitVec.toNat_ofNat, adcSum, BitVec.toInt_eq_toNat_cond, BitVec.toInt_eq_toNat_cond]
  split_ifs <;> omega

theorem flags_adcFlags_v_iff (a m p : Byte) : (flags (adcFlags a m p)).v = true ↔
    (a.toInt + m.toInt + (flags p).c.toNat < -128 ∨ 127 < a.toInt + m.toInt + (flags p).c.toNat) := by
  rw [flags_adcFlags]
  exact adcOverflow_adcSum_iff a m (flagC p)

/-- The signed difference is the signed sum with the complemented operand. -/
theorem flags_adcFlags_xor_ff_v_iff (a m p : Byte) : (flags (adcFlags a (m ^^^ 0xFF) p)).v = true ↔
    (a.toInt - m.toInt - (1 - (flags p).c.toNat) < -128 ∨ 127 < a.toInt - m.toInt - (1 - (flags p).c.toNat)) := by
  have hdiff : a.toInt + (m ^^^ 0xFF).toInt + (flags p).c.toNat = a.toInt - m.toInt - (1 - (flags p).c.toNat) := by
    rw [toInt_xor_ff]
    omega
  rw [flags_adcFlags_v_iff, hdiff]

end Sys2Proof.Claims
end

section
/-! PROOFS. Logic, arithmetic, compares, increments and decrements (O16 to O22): each is its access class's closed form under its own
operation, whose A and P the laws above name as the statements do. -/

namespace Sys2Proof.Claims

open Sys2Proof.Machine

/-- Settles O16: the tables by the opcode map, the effect by `completes_read`. -/
theorem logicInstructions : Obligations.LogicInstructions := by
  refine ⟨encodes_of_rowAt (by decide +kernel), encodes_of_rowAt (by decide +kernel), encodes_of_rowAt (by decide +kernel),
    encodes_of_rowAt (by decide +kernel), fun i s => ?_⟩
  simp only [← putZN_eq, ← bitFlags_eq]
  refine ⟨fun hand => ?_, fun hora => ?_, fun heor => ?_, fun hbit => ?_⟩
  · exact completes_read (op := andA) (congrArg readOp hand) s _ fun _ _ => rfl
  · exact completes_read (op := oraA) (congrArg readOp hora) s _ fun _ _ => rfl
  · exact completes_read (op := eorA) (congrArg readOp heor) s _ fun _ _ => rfl
  · exact completes_read (op := bitA) (congrArg readOp hbit) s _ fun _ _ => rfl

/-- Settles O17: the model's addition is the statement's and commutes with setting D. -/
theorem addWithCarry_holds : Obligations.AddWithCarry := by
  refine ⟨encodes_of_rowAt (by decide +kernel), fun a m p d => ?_, fun i s hadc => ?_⟩
  · rw [← eq_pack (flags_putD d p)]
    simp only [addWithCarry_eq, flagC_putD, adcFlags_putD, flags_putD, and_self]
  · simp only [addWithCarry_eq]
    exact completes_read (op := adcA) (congrArg readOp hadc) s _ fun _ _ => rfl

/-- Settles O18: the sum with the complemented operand is the difference, 0x100 above it. -/
theorem subtractWithBorrow : Obligations.SubtractWithBorrow := by
  refine ⟨encodes_of_rowAt (by decide +kernel), fun a m p => ?_, fun i s hsbc => ?_⟩
  · simp only [addWithCarry_eq, flags_adcFlags, decide_eq_true_eq]
    exact ⟨ofNat_adcSum_xor_ff a m (flagC p), lt_adcSum_xor_ff_iff a m (flagC p)⟩
  · simp only [addWithCarry_eq]
    exact completes_read (op := sbcA) (congrArg readOp hsbc) s _ fun _ _ => rfl

/-- Settles O19: V is `adcOverflow`, which compares signs; the exact signed sum decides them. -/
theorem overflowIsSigned : Obligations.OverflowIsSigned := by
  intro i s t hx
  refine ⟨fun hadc => ?_, fun hsbc => ?_⟩
  · obtain ⟨ea, me, e⟩ := exec_read (op := adcA) (congrArg readOp hadc) s
    obtain rfl := Host.Outcome.next.inj (hx.symm.trans e)
    exact flags_adcFlags_v_iff s.cpu.a (operandM i s).1 s.cpu.p
  · obtain ⟨ea, me, e⟩ := exec_read (op := sbcA) (congrArg readOp hsbc) s
    obtain rfl := Host.Outcome.next.inj (hx.symm.trans e)
    exact flags_adcFlags_xor_ff_v_iff s.cpu.a (operandM i s).1 s.cpu.p

/-- Settles O20: the tables by the opcode map; the three differ in the register compared. -/
theorem compareInstructions : Obligations.CompareInstructions := by
  refine ⟨encodes_of_rowAt (by decide +kernel), encodes_of_rowAt (by decide +kernel), encodes_of_rowAt (by decide +kernel),
    fun i s => ?_⟩
  simp only [← compareFlags_eq]
  refine ⟨fun hcmp => ?_, fun hcpx => ?_, fun hcpy => ?_⟩
  · exact completes_read (op := cmpA) (congrArg readOp hcmp) s _ fun _ _ => rfl
  · exact completes_read (op := cpxX) (congrArg readOp hcpx) s _ fun _ _ => rfl
  · exact completes_read (op := cpyY) (congrArg readOp hcpy) s _ fun _ _ => rfl

/-- Settles O21: no form of INC or DEC is an accumulator form, so the store and its frame are `completes_modify`'s. -/
theorem memoryIncrements : Obligations.MemoryIncrements := by
  refine ⟨encodes_of_rowAt (by decide +kernel), encodes_of_rowAt (by decide +kernel), fun i s => ?_⟩
  simp only [← putZN_eq]
  refine ⟨fun hinc => ?_, fun hdec => ?_⟩
  · have hm : i.mode ≠ .accumulator := fun hacc => absurd (hinc ▸ accumulator_mnemonic hacc) (by decide)
    exact completes_modify (f := incResult) (g := incFlags) (congrArg modifyOp hinc) hm s
  · have hm : i.mode ≠ .accumulator := fun hacc => absurd (hdec ▸ accumulator_mnemonic hacc) (by decide)
    exact completes_modify (f := decResult) (g := incFlags) (congrArg modifyOp hdec) hm s

/-- Settles O22: the tables by the opcode map; each operation is the statement's update, its `putZN` being `znOf`. -/
theorem registerIncrements : Obligations.RegisterIncrements := by
  refine ⟨encodes_of_rowAt (by decide +kernel), encodes_of_rowAt (by decide +kernel), encodes_of_rowAt (by decide +kernel),
    encodes_of_rowAt (by decide +kernel), fun i s => ?_⟩
  simp only [← putZN_eq]
  refine ⟨fun hinx => ?_, fun hiny => ?_, fun hdex => ?_, fun hdey => ?_⟩
  · exact completes_implied_spent (op := inxOp) (congrArg impliedOp hinx) s _ rfl rfl
  · exact completes_implied_spent (op := inyOp) (congrArg impliedOp hiny) s _ rfl rfl
  · exact completes_implied_spent (op := dexOp) (congrArg impliedOp hdex) s _ rfl rfl
  · exact completes_implied_spent (op := deyOp) (congrArg impliedOp hdey) s _ rfl rfl

end Sys2Proof.Claims
end

section
/-! PROOFS. Shifts and rotates (O23): the accumulator form as a rule of the read-modify-write class, and the four shifts by what
they compute. -/

namespace Sys2Proof.Claims

open Sys2Proof.Machine

/-! The accumulator form. -/

/-- The operand of an accumulator form is A (R401). -/
theorem operandM_of_accumulator {i : Instr} (hm : i.mode = .accumulator) (s : State) : operandM i s = (s.cpu.a, s) := by
  simp only [operandM, hm]

theorem spent_of_accumulator {i : Instr} (hm : i.mode = .accumulator) (s : State) : spent i s = s.cpu.cycles + 2 := by
  cases i <;> simp only [Instr.mode, reduceCtorEq] at hm <;> rfl

/-- A read-modify-write instruction on A completes quietly with its result in A and its P. -/
theorem completes_modifyAcc {i : Instr} {f : Byte → Byte → Byte} {g : Byte → Byte → Byte → Byte}
    (h : modifyOp i.mnemonic = some (f, g)) (hm : i.mode = .accumulator) (s : State) :
    CompletesQuietly i s { s with cpu := { s.cpu with
      a := f s.cpu.p s.cpu.a, p := g s.cpu.p s.cpu.a (f s.cpu.p s.cpu.a), cycles := spent i s } } := by
  refine ⟨_, exec_modifyAcc h hm s, ?_, memoryKept_of rfl rfl rfl rfl rfl⟩
  rw [spent_of_accumulator hm]
  rfl

/-! What the four shifts compute. -/

/-- The statements' P after a shift is the model's. -/
theorem shiftedP_eq (m : Mnemonic) (v p : Byte) :
    shiftedP m v p = shiftFlags (shifted m v (flags p).c).2 (shifted m v (flags p).c).1 p :=
  (eq_pack (by simp only [shiftFlags, putZN, flags_putN, flags_putZ, flags_putC])).symm

/-- A shift's result and flags are those of `shifted`, under the old carry. -/
theorem modifyOp_of_shift {m : Mnemonic} (hm : m = .asl ∨ m = .lsr ∨ m = .rol ∨ m = .ror) :
    modifyOp m = some (fun p v => (shifted m v (flags p).c).1, fun p v r => shiftFlags (shifted m v (flags p).c).2 r p) := by
  rcases hm with rfl | rfl | rfl | rfl <;> rfl

/-- Settles O23: the tables by the opcode map; in A the effect is `completes_modifyAcc`'s, in memory the store and its frame are
`completes_modify`'s. -/
theorem shiftInstructions : Obligations.ShiftInstructions := by
  refine ⟨encodes_of_rowAt (by decide +kernel), encodes_of_rowAt (by decide +kernel), encodes_of_rowAt (by decide +kernel),
    encodes_of_rowAt (by decide +kernel), fun i s hshift => ?_⟩
  simp only [shiftedP_eq]
  refine ⟨fun hacc => ?_, fun hmem => ?_⟩
  · rw [operandM_of_accumulator hacc]
    exact completes_modifyAcc (modifyOp_of_shift hshift) hacc s
  · exact completes_modify (modifyOp_of_shift hshift) hmem s

end Sys2Proof.Claims
end

section
/-! SUPPORT. What the stack holds: the bytes a push leaves where a pull reads them, and a bus read of any address after a 16-bit
push. -/

namespace Sys2Proof.Claims

open Sys2Proof.Machine

/-! The bytes pushed. -/

theorem sameRamByte_stackAddr (a : Word) (sp : Byte) :
    sameRamByte a (stackAddr sp) = true ↔ a.toNat ≤ 0x1FFF ∧ a.toNat % 0x800 = 0x100 + sp.toNat := by
  have hsp : 0x100 + sp.toNat ≤ 0x1FFF := by omega
  simp only [sameRamByte, stackAddr_toNat, stackAddr_mod, hsp, decide_true, Bool.and_true, Bool.and_eq_true, decide_eq_true_eq,
    beq_iff_eq]

/-- The first byte pushed stays at S while fewer than 256 follow it. -/
theorem pushed_read_first {m : Mem} (hm : Mem.wf 2048 m = true) (sp v : Byte) {rest : List Byte} (hl : rest.length < 256) :
    (pushed m sp (v :: rest)).read (0x100 + sp.toNat) = v := by
  have hrest : ∀ k < rest.length, sameRamByte (stackAddr (sp - 1 - BitVec.ofNat 8 k)) (stackAddr sp) = false := by
    intro k hk
    rw [Bool.eq_false_iff, ne_eq, sameRamByte_stackAddr, stackAddr_toNat, stackAddr_mod]
    bv_omega
  have hwrite := Mem.write_wf hm (show 0x100 + sp.toNat < 2048 by omega) v
  have hread := pushed_read rest hwrite (a := stackAddr sp) (by rw [stackAddr_toNat]; omega) hrest
  rw [stackAddr_toNat, stackAddr_mod, Mem.read_write_same hm] at hread
  exact hread

theorem pushed_wf (l : List Byte) {m : Mem} (hm : Mem.wf 2048 m = true) (sp : Byte) : Mem.wf 2048 (pushed m sp l) = true := by
  induction l generalizing m sp with
  | nil => exact hm
  | cons v rest ih => exact ih (Mem.write_wf hm (by omega) v) (sp - 1)

/-- A word pushed first is the word a pull finds once the bytes pushed after it are pulled. -/
theorem stackWord_of_pushed {m : Mem} (hm : Mem.wf 2048 m = true) {t : State} {sp : Byte} {w : Word} {rest : List Byte}
    (hl : rest.length < 255) (hram : t.ram = pushed m sp (hiByte w :: loByte w :: rest)) {k : Nat}
    (hk : t.cpu.s + BitVec.ofNat 8 k = sp - 1) : mkWord (stackByte t (k + 1)) (stackByte t k) = w := by
  have hk' : t.cpu.s + BitVec.ofNat 8 (k + 1) = sp := by
    rw [BitVec.ofNat_add, ← BitVec.add_assoc, hk]
    exact sp_back sp
  have hhi : stackByte t (k + 1) = hiByte w := by
    rw [stackByte, hk', hram]
    exact pushed_read_first hm sp (hiByte w) (Nat.succ_lt_succ hl)
  have hlo : stackByte t k = loByte w := by
    rw [stackByte, hk, hram]
    exact pushed_read_first (pushed_wf [hiByte w] hm sp) (sp - 1) (loByte w) (Nat.lt_succ_of_lt hl)
  rw [hhi, hlo, mkWord_bytes]

/-! The two returns, by the bytes of page 1 they pull. -/

theorem rtsOp_eq (s : State) : rtsOp s =
    { s with
      openBus := stackByte s 2
      cpu := { s.cpu with s := s.cpu.s + 2, pc := mkWord (stackByte s 2) (stackByte s 1) + 1 } } := by
  simp only [rtsOp, pull16_eq, sp_add2]
  rfl

theorem rtiOp_eq (s : State) : rtiOp s =
    { s with
      openBus := stackByte s 3
      cpu := { s.cpu with
        s := s.cpu.s + 3, p := pulledP (stackByte s 1), pc := mkWord (stackByte s 3) (stackByte s 2) } } := by
  rw [rtiOp, returnFromInterrupt_eq, sp_add3, sp_add2]
  rfl

/-! A read after a 16-bit push. -/

/-- No read above RAM looks at RAM or changes it. -/
theorem busRead_withRam {a : Word} (h : ¬a.toNat ≤ 0x1FFF) (s : State) (m : Mem) :
    busRead a { s with ram := m } = ((busRead a s).1, { (busRead a s).2 with ram := m }) := by
  have hdevice : busReadDevice a { s with ram := m } = ((busReadDevice a s).1, { (busReadDevice a s).2 with ram := m }) := by
    simp only [busReadDevice, if_neg h]
    split
    · simp only [ppuPortRead]
      split <;> rfl
    split
    · rfl
    split
    · rfl
    split
    · rfl
    split
    · rfl
    split
    · rfl
    simp only [readProgram]
    split
    · rfl
    split <;> rfl
  simp only [busRead, hdevice, State.setOpenBus]

/-- A byte of RAM after a 16-bit push is the one `jsrHigh` names. -/
theorem read_push16 {s : State} (hs : Mem.wf 2048 s.ram = true) {a : Word} (h : a.toNat ≤ 0x1FFF) (w : Word) :
    (push16 w s).ram.read (a.toNat % 0x800) = jsrHigh a w s.cpu.s (s.ram.read (a.toNat % 0x800)) := by
  have hw : Mem.wf 2048 (s.ram.write (0x100 + s.cpu.s.toNat) (hiByte w)) = true := Mem.write_wf hs (by omega) _
  simp only [push16_eq, jsrHigh, sameRamByte_stackAddr, Mem.read_write hw, Mem.read_write hs, h, true_and]

/-- A bus read after a 16-bit push reads what it would have read before it, unless a push wrote that byte; the two commute but for
`openBus`. -/
theorem busRead_push16 {s : State} (hs : Mem.wf 2048 s.ram = true) (a w : Word) :
    busRead a (push16 w s) =
      (jsrHigh a w s.cpu.s (busRead a s).1, (push16 w (busRead a s).2).setOpenBus (jsrHigh a w s.cpu.s (busRead a s).1)) := by
  by_cases h : a.toNat ≤ 0x1FFF
  · rw [busRead_low h, busRead_low h, read_push16 hs h]
    simp only [push16_eq, State.setOpenBus]
  · have hfar (sp : Byte) : ¬sameRamByte a (stackAddr sp) = true := fun hsame => h ((sameRamByte_stackAddr a sp).mp hsame).1
    have hjsr (hi : Byte) : jsrHigh a w s.cpu.s hi = hi := by rw [jsrHigh, if_neg (hfar _), if_neg (hfar _)]
    rw [hjsr, push16_eq, push16_eq, busRead_cpu, busRead_memRam]
    exact (busRead_withRam h { s with cpu := { s.cpu with s := s.cpu.s - 1 - 1 } } _).trans (by rw [busRead_withCpu]; rfl)

end Sys2Proof.Claims
end

section
/-! PROOFS. Jumps, branches and calls (O24 to O29): each is its closed form, and a call is what its return pulls. -/

namespace Sys2Proof.Claims

open Sys2Proof.Machine

/-- Settles O24: both jumps by `exec_jmp`, whose pointer reads leave memory alone. -/
theorem jumpAndNop : Obligations.JumpAndNop := by
  refine ⟨encodes_of_rowAt (by decide +kernel), encodes_of_rowAt (by decide +kernel), fun ptr s => ?_,
    fun i s => ⟨fun hjmp => ?_, fun hnop => ?_⟩⟩
  · simp only [address, Instr.mode, baseAddress, op16_of (i := .jmpInd ptr) rfl]
    rfl
  · obtain ⟨ea, me, hx⟩ := exec_jmp hjmp s
    obtain ⟨hram, hcart, hvram, hpalette, hoam⟩ := resolved_kept i s
    exact ⟨_, hx, rfl, memoryKept_of hram hcart hvram hpalette hoam⟩
  · exact completes_implied_spent (op := nopOp) (congrArg impliedOp hnop) s _ rfl rfl

/-- Settles O25: the high byte is `jsrHigh`'s, whose two overlaps exclude each other. -/
theorem jsrCompletes : Obligations.JsrCompletes := by
  intro a s
  refine ⟨jsrHigh (s.cpu.pc - 1) (s.cpu.pc - 1) s.cpu.s (hiByte a), ⟨_, exec_jsr a s, ?_, fun hs => ?_⟩,
    fun hfirst hsecond => ?_, fun hsecond => ?_, fun hfirst => ?_⟩
  · rw [sp_sub2]
    rfl
  · exact pushKept_of hs [hiByte (s.cpu.pc - 1), loByte (s.cpu.pc - 1)] rfl rfl rfl rfl
  · simp only [jsrHigh, hfirst, hsecond, Bool.false_eq_true, if_false]
  · rw [jsrHigh, if_pos hsecond]
  · have hsecond : ¬sameRamByte (s.cpu.pc - 1) (stackAddr (s.cpu.s - 1)) = true := by
      rw [sameRamByte_stackAddr] at hfirst ⊢
      exact fun hboth => sp_apart1 s.cpu.s (hfirst.2.symm.trans hboth.2)
    rw [jsrHigh, if_neg hsecond, if_pos hfirst]

/-- No fetch looks at `opcode`. -/
theorem fetch8_setOpcode (v : Byte) (s : State) : fetch8 (s.setOpcode v) = ((fetch8 s).1, (fetch8 s).2.setOpcode v) := by
  have hread := busRead_withCpu s.cpu.pc s { s.cpu with opcode := v }
  simp only [fetch8, State.setOpcode, hread, State.setPc, busRead_cpu]

/-- JSR from its opcode byte: both operand bytes are fetched, then it executes. -/
theorem executeInstruction_jsr {s : State} (h : (busRead s.cpu.pc s).1 = 0x20) :
    let lo := fetch8 (fetch8 s).2
    let hi := fetch8 lo.2
    executeInstruction s = exec (.jsr (mkWord hi.1 lo.1)) (hi.2.setOpcode 0x20) := by
  have hop : fetchOpcode s = (0x20, (fetch8 s).2.setOpcode 0x20) := by simp only [fetchOpcode, fetch8, h]
  have hform : form 0x20 = some (.three .jsr) := rfl
  simp only [executeInstruction, hop, hform, fetchOperand, fetch8_setOpcode]

/-- With its high byte fetched before the pushes, JSR leaves what fetching it after them does. -/
theorem exec_jsr_fetched {s : State} (hs : Mem.wf 2048 s.ram = true) (lo : Byte) :
    let before := fetch8 s
    let after := fetch8 (push16 s.cpu.pc s)
    ∃ t, exec (.jsr (mkWord before.1 lo)) (before.2.setOpcode 0x20) = .next t ∧
      visible t = visible { after.2 with cpu := { after.2.cpu with pc := mkWord after.1 lo, cycles := s.cpu.cycles + 6 } } := by
  refine ⟨_, exec_jsr _ _, ?_⟩
  have hpc : (push16 s.cpu.pc s).cpu.pc = s.cpu.pc := by rw [push16_eq]
  simp only [fetch8, hpc, busRead_push16 hs, hiByte_mkWord, loByte_mkWord, State.setOpcode_cpu, State.setPc_cpu, busRead_cpu,
    State.setOpcode_ram, State.setPc_ram, busRead_memRam, BitVec.add_sub_cancel]
  rw [push16_eq, busRead_cpu, busRead_memRam]
  rfl

/-- Settles O26: the pushes and the fetch of the high byte commute but for the byte a push wrote. -/
theorem jsrInSpecOrder : Obligations.JsrInSpecOrder := by
  refine ⟨encodes_of_rowAt (by decide +kernel), fun s hs hop => ?_⟩
  have hcycles : (fetch8 (fetch8 s).2).2.cpu.cycles = s.cpu.cycles := by rw [fetch8_cpu, fetch8_cpu]
  obtain ⟨t, ht, hvisible⟩ := exec_jsr_fetched (fetch8_inv (fetch8_inv hs)).ram (fetch8 (fetch8 s).2).1
  rw [hcycles] at hvisible
  exact ⟨t, (executeInstruction_jsr hop).trans ht, hvisible⟩

/-- Settles O27: RTS is `rtsOp_eq`'s pull, its cycles counted. -/
theorem rtsReturns : Obligations.RtsReturns := by
  refine ⟨encodes_of_rowAt (by decide +kernel), fun s => ?_⟩
  exact completes_implied_spent (op := rtsOp) rfl s _ (by rw [rtsOp_eq]; rfl) rfl

/-- Settles O28: RTS pulls the word JSR pushed, PC - 1. -/
theorem jsrThenRts : Obligations.JsrThenRts := by
  intro a s t hs ht t' hram hsp
  obtain rfl := Host.Outcome.next.inj ((exec_jsr a s).symm.trans ht)
  have hword : mkWord (stackByte t' 2) (stackByte t' 1) = s.cpu.pc - 1 :=
    stackWord_of_pushed hs.ram (rest := []) (by simp) hram (by rw [hsp]; exact sp_back _)
  refine ⟨_, (exec_implied (op := rtsOp) rfl t').trans (congrArg Host.Outcome.next (rtsOp_eq _)), ?_, ?_, hram⟩
  · exact (congrArg (· + 1) hword).trans (BitVec.sub_add_cancel _ _)
  · exact (congrArg (· + 2) (hsp.trans (sp_sub2 _))).trans (BitVec.sub_add_cancel _ _)

theorem rowOf_of_encodes {m : Mnemonic} {row : Row} (h : Encodes m [row]) (i : Instr) (hi : i.mnemonic = m) : rowOf i = row :=
  List.mem_singleton.mp (h.1 i hi)

/-- A branch completes quietly at its target exactly when its condition holds (R810). -/
theorem completes_branch {i : Instr} {cond : Byte → Bool} (h : branchCond i.mnemonic = some cond) (s : State) :
    let target := s.cpu.pc + (op8 i).signExtend 16
    CompletesQuietly i s { s with cpu := { s.cpu with
      pc := if cond s.cpu.p then target else s.cpu.pc
      cycles := s.cpu.cycles + 2 + (if cond s.cpu.p then 1 + (if pageCross s.cpu.pc target then 1 else 0) else 0) } } :=
  ⟨_, (exec_branch h s).trans (branchIf_eq 2 (cond s.cpu.p) (op8 i) s), rfl, memoryKept_of rfl rfl rfl rfl rfl⟩

/-- Settles O29: the eight rows by the opcode map, the effect by `completes_branch` under each branch's condition. -/
theorem branchInstructions : Obligations.BranchInstructions := by
  refine ⟨rowOf_of_encodes (encodes_of_rowAt (by decide +kernel)), rowOf_of_encodes (encodes_of_rowAt (by decide +kernel)),
    rowOf_of_encodes (encodes_of_rowAt (by decide +kernel)), rowOf_of_encodes (encodes_of_rowAt (by decide +kernel)),
    rowOf_of_encodes (encodes_of_rowAt (by decide +kernel)), rowOf_of_encodes (encodes_of_rowAt (by decide +kernel)),
    rowOf_of_encodes (encodes_of_rowAt (by decide +kernel)), rowOf_of_encodes (encodes_of_rowAt (by decide +kernel)),
    fun i s taken htaken => ?_⟩
  have hcond : ∃ cond, branchCond i.mnemonic = some cond ∧ taken = cond s.cpu.p := by
    rcases htaken with ⟨hm, ht⟩ | ⟨hm, ht⟩ | ⟨hm, ht⟩ | ⟨hm, ht⟩ | ⟨hm, ht⟩ | ⟨hm, ht⟩ | ⟨hm, ht⟩ | ⟨hm, ht⟩ <;>
      exact ⟨_, congrArg branchCond hm, ht⟩
  obtain ⟨cond, hbranch, rfl⟩ := hcond
  exact completes_branch hbranch s

end Sys2Proof.Claims
end

section
/-! PROOFS. The software interrupt and its return (O30 to O32). -/

namespace Sys2Proof.Claims

open Sys2Proof.Machine

/-- The statements' entry from the IRQ vector is the model's, whatever PC and P are pushed. -/
theorem enterInterrupt_irq (savedPc : Word) (savedP : Byte) (s : State) :
    enterInterrupt savedP 0xFFFE (s.setPc savedPc) = entered savedPc savedP 0xFFFE s := by
  have hp : putBit s.cpu.p 2 true = ({ flags s.cpu.p with i := true } : Flags).pack := by
    rw [putBit_two]
    exact eq_pack (flags_putI true s.cpu.p)
  rw [enterInterrupt_eq savedP (by decide) (by decide), entered, ← hp, ← sp_sub3]
  rfl

/-- BRK is the entry with the padding byte skipped and B = 1 in the pushed P, its cycles counted. -/
theorem exec_brk (s : State) :
    exec .brk s = .next (entered (s.cpu.pc + 1) (pushedBreak s.cpu.p) 0xFFFE (s.start 7)) :=
  (exec_implied (op := brkOp) rfl s).trans
    (congrArg Host.Outcome.next (enterInterrupt_irq (s.cpu.pc + 1) (pushedBreak s.cpu.p) (s.start 7)))

/-- Settles O30: BRK is the common entry, its three pushes framed by `pushKept_of`. -/
theorem brkEnters : Obligations.BrkEnters := by
  refine ⟨encodes_of_rowAt (by decide +kernel), fun s => ⟨_, exec_brk s, ?_, fun hs => ?_⟩⟩
  · rw [← eq_pack (flags_pushedBreak s.cpu.p)]
    rfl
  · exact pushKept_of hs [hiByte (s.cpu.pc + 1), loByte (s.cpu.pc + 1), pushedBreak s.cpu.p] rfl rfl rfl rfl

/-- Settles O31: RTI is `rtiOp_eq`'s pulls, its cycles counted. -/
theorem rtiReturns : Obligations.RtiReturns := by
  refine ⟨encodes_of_rowAt (by decide +kernel), fun s => ?_⟩
  exact completes_implied_spent (op := rtiOp) rfl s _ (by rw [rtiOp_eq]; rfl) rfl

/-- A P that 10_state R107 can store comes back from the stack. -/
theorem pulledP_pushedBreak : ∀ p : Byte, p.getLsbD 5 = true ∧ p.getLsbD 4 = false → pulledP (pushedBreak p) = p := by
  decide +kernel

/-- Settles O32: RTI pulls the P and the PC that BRK pushed. -/
theorem brkThenRti : Obligations.BrkThenRti := by
  intro s t hs ht t' hram hsp
  obtain rfl := Host.Outcome.next.inj ((exec_brk s).symm.trans ht)
  replace hram : t'.ram = pushed s.ram s.cpu.s [hiByte (s.cpu.pc + 1), loByte (s.cpu.pc + 1), pushedBreak s.cpu.p] := hram
  replace hsp : t'.cpu.s = s.cpu.s - 3 := hsp
  have hpc : mkWord (stackByte t' 3) (stackByte t' 2) = s.cpu.pc + 1 :=
    stackWord_of_pushed hs.ram (by simp) hram (by rw [hsp]; bv_omega)
  have hp : stackByte t' 1 = pushedBreak s.cpu.p := by
    rw [stackByte, show t'.cpu.s + BitVec.ofNat 8 1 = s.cpu.s - 1 - 1 by rw [hsp]; bv_omega, hram]
    exact pushed_read_first (pushed_wf [hiByte (s.cpu.pc + 1), loByte (s.cpu.pc + 1)] hs.ram s.cpu.s) _ _ (by simp)
  refine ⟨_, (exec_implied (op := rtiOp) rfl t').trans (congrArg Host.Outcome.next (rtiOp_eq _)), hpc, ?_, ?_, hram⟩
  · exact (congrArg pulledP hp).trans (pulledP_pushedBreak s.cpu.p hs.cpu)
  · exact (congrArg (· + 3) hsp).trans (BitVec.sub_add_cancel _ _)

end Sys2Proof.Claims
end

section
/-! PROOFS. The flag instructions (O33): each sets one flag of P, said once for whatever flag it is. -/

namespace Sys2Proof.Claims

open Sys2Proof.Machine

/-- An implied instruction that only rewrites P completes quietly with P's new flags. -/
theorem completes_setP {i : Instr} {put : Byte → Byte} {s : State} {f : Flags}
    (h : impliedOp i.mnemonic = some (fun t => t.setP (put t.cpu.p))) (hflags : flags (put s.cpu.p) = f) :
    CompletesQuietly i s { s with cpu := { s.cpu with p := f.pack, cycles := spent i s } } := by
  rw [← eq_pack hflags]
  exact completes_implied_spent h s _ rfl rfl

/-- Settles O33: the seven rows by the opcode map, the effect by `completes_setP` under each instruction's flag. -/
theorem flagInstructions : Obligations.FlagInstructions := by
  refine ⟨encodes_of_rowAt (by decide +kernel), encodes_of_rowAt (by decide +kernel), encodes_of_rowAt (by decide +kernel),
    encodes_of_rowAt (by decide +kernel), encodes_of_rowAt (by decide +kernel), encodes_of_rowAt (by decide +kernel),
    encodes_of_rowAt (by decide +kernel), fun i s => ?_⟩
  refine ⟨fun hclc => ?_, fun hsec => ?_, fun hcli => ?_, fun hsei => ?_, fun hcld => ?_, fun hsed => ?_, fun hclv => ?_⟩
  · exact completes_setP (congrArg impliedOp hclc) (flags_putC false s.cpu.p)
  · exact completes_setP (congrArg impliedOp hsec) (flags_putC true s.cpu.p)
  · exact completes_setP (congrArg impliedOp hcli) (flags_putI false s.cpu.p)
  · exact completes_setP (congrArg impliedOp hsei) (flags_putI true s.cpu.p)
  · exact completes_setP (congrArg impliedOp hcld) (flags_putD false s.cpu.p)
  · exact completes_setP (congrArg impliedOp hsed) (flags_putD true s.cpu.p)
  · exact completes_setP (congrArg impliedOp hclv) (flags_putV false s.cpu.p)

end Sys2Proof.Claims
end

section
/-! PROOFS. The CPU step (O5, O6, O8, O10) and the completion of every instruction (O9): an interrupt entry in closed form, the
fetch of an instruction byte by byte, and the rest from `step_does` and `exec_keeps`. -/

namespace Sys2Proof.Claims

open Sys2Proof.Machine

/-! The interrupt entries (60_exceptions R1013). -/

/-- The statements' entry is the model's, from any vector of the program space. -/
theorem enterInterrupt_eq_entered (savedP : Byte) {vector : Word} (h : 0x8000 ≤ vector.toNat) (h' : vector.toNat < 0xFFFF)
    (s : State) : enterInterrupt savedP vector s = entered s.cpu.pc savedP vector.toNat s := by
  have hp : putBit s.cpu.p 2 true = ({ flags s.cpu.p with i := true } : Flags).pack := eq_pack (flags_putI true s.cpu.p)
  rw [enterInterrupt_eq savedP h h', entered, ← hp, ← sp_sub3]
  rfl

theorem pushedIrq_eq_pack (p : Byte) : pushedIrq p = ({ flags p with u := true, b := false } : Flags).pack :=
  eq_pack (flags_pushedIrq p)

/-- The NMI entry after the stall drain. -/
theorem nmiEntry_drainStall (s : State) :
    let t := entered s.cpu.pc (pushedIrq s.cpu.p) 0xFFFA s
    nmiEntry (drainStall s) =
      { t with cpu := { t.cpu with cycles := s.cpu.stallCycles + 7, stallCycles := 0, nmiPending := false } } := by
  simp only [nmiEntry, enterInterrupt_eq_entered _ (vector := 0xFFFA) (by decide) (by decide)]
  rfl

/-- The IRQ entry after the stall drain. -/
theorem irqEntry_drainStall (s : State) :
    let t := entered s.cpu.pc (pushedIrq s.cpu.p) 0xFFFE s
    irqEntry (drainStall s) =
      { t with cpu := { t.cpu with cycles := s.cpu.stallCycles + 7, stallCycles := 0, irqLatch := false } } := by
  simp only [irqEntry, enterInterrupt_eq_entered _ (vector := 0xFFFE) (by decide) (by decide)]
  rfl

/-- The poll takes an unmasked IRQ whose line is asserted (60_exceptions R1010, R1012). -/
theorem takesIrq_of_irqLine {s : State} (hline : s.irqLine = true) (hmask : (flags s.cpu.p).i = false) : takesIrq s = true := by
  have hi : flagI s.cpu.p = false := hmask
  simp only [takesIrq, irqAsserted, Config.irqTrigger, hline, hi, Bool.not_false, Bool.and_self]

/-- An entry's three pushes keep every other byte of memory. -/
theorem pushKept_entered {s : State} (hs : s.Inv) (savedPc : Word) (savedP : Byte) (vector : Nat) :
    PushKept 3 s (entered savedPc savedP vector s) :=
  pushKept_of hs [hiByte savedPc, loByte savedPc, savedP] rfl rfl rfl rfl

/-- Settles O6: the poll's two entries in closed form, their pushes framed by `pushKept_entered`. -/
theorem nmiEntry : Obligations.NmiEntry := by
  intro s hfault
  simp only [← pushedIrq_eq_pack]
  refine ⟨fun hnmi => ?_, fun hnmi hline hmask => ?_, fun hs => ⟨pushKept_entered hs _ _ _, pushKept_entered hs _ _ _⟩⟩
  · rw [step_nmi hfault hnmi, nmiEntry_drainStall]
  · rw [step_irq hfault hnmi (takesIrq_of_irqLine hline hmask), irqEntry_drainStall]

/-! What a step answers (60_exceptions R1030 to R1032), and the cycles it counts (R1001). -/

/-- Settles O8: the three cases of `step_does`, the fatal byte being unassigned by the opcode map. -/
theorem noOtherStop : Obligations.NoOtherStop := by
  refine fun s => ⟨fun r hfault => step_halted hfault, fun hfault => ?_⟩
  rcases step_does s with ⟨r, hr, -⟩ | ⟨u, -, hstep, keeps⟩ | ⟨-, -, -, hform, hstep⟩
  · rw [hfault] at hr
    cases hr
  · obtain ⟨hkept, -⟩ := finishStep_keeps u
    exact .inl ⟨_, hstep, hkept.trans (keeps.fault.trans hfault)⟩
  · exact .inr ⟨_, _, _, hstep, (form_eq_none_iff _).mp hform, rfl⟩

/-- Settles O9: four of the things `exec_keeps` says of every instruction. -/
theorem everyInstructionCompletes : Obligations.EveryInstructionCompletes := by
  intro i s
  obtain ⟨t, hexec, keeps⟩ := exec_keeps i s
  exact ⟨t, hexec, keeps.fault, keeps.image, keeps.nmi, keeps.total⟩

/-- Settles O10: the entry or instruction counts the cycles, the end of the step adds them once. -/
theorem stepCycles : Obligations.StepCycles := by
  intro s t ht
  rcases step_does s with ⟨r, -, hstep⟩ | ⟨u, -, hstep, keeps⟩ | ⟨-, -, -, -, hstep⟩ <;> rw [hstep] at ht
  · cases ht
  · cases ht
    obtain ⟨-, -, -, htotal, hcycles, -⟩ := finishStep_keeps u
    rw [htotal, hcycles, keeps.total]
    exact ⟨rfl, keeps.low, keeps.high⟩
  · cases ht

/-! The fetch of an instruction, byte by byte (60_exceptions R1002). -/

/-- No operand fetch looks at `opcode`. -/
theorem fetchOperand_setOpcode (f : Form) (v : Byte) (s : State) :
    fetchOperand f (s.setOpcode v) = ((fetchOperand f s).1, (fetchOperand f s).2.setOpcode v) := by
  cases f <;> simp only [fetchOperand, fetch8_setOpcode]

/-- Where the bytes at PC are an instruction's, the step's fetches read its opcode byte, then its operand, and end where
`fetchBytes` does. -/
theorem fetchOperand_of_format {op : Byte} {f : Form} {i : Instr} (hfmt : Format op f i) {s : State}
    (hbytes : (fetchBytes i.length s).1 = encode i) :
    (fetch8 s).1 = op ∧ fetchOperand f (fetch8 s).2 = (i, (fetchBytes i.length s).2) := by
  cases hfmt with
  | f1 henc hlen =>
    simp only [henc, hlen, fetchBytes, List.cons.injEq, and_true] at hbytes
    simp only [hlen, fetchBytes, fetchOperand, hbytes, and_self]
  | f2 b henc hlen =>
    simp only [henc, hlen, fetchBytes, List.cons.injEq, and_true] at hbytes
    simp only [hlen, fetchBytes, fetchOperand, hbytes, and_self]
  | f3 a henc hlen =>
    simp only [henc, hlen, fetchBytes, List.cons.injEq, and_true] at hbytes
    simp only [hlen, fetchBytes, fetchOperand, hbytes, mkWord_bytes, and_self]

/-- `ExecuteInstruction()` where the bytes at PC are an instruction's. -/
theorem executeInstruction_of_fetchBytes {i : Instr} {s : State} (hbytes : (fetchBytes i.length s).1 = encode i) :
    executeInstruction s = exec i ((fetchBytes i.length s).2.setOpcode (opcodeOf i)) := by
  obtain ⟨f, hform, hfmt⟩ := exists_format i
  obtain ⟨hop, hoperand⟩ := fetchOperand_of_format hfmt hbytes
  simp only [executeInstruction, fetchOpcode, hop, hform, fetchOperand_setOpcode, hoperand]

/-- Settles O5: bytes that decode to an instruction are its encoding (O2), which the step fetches and executes. -/
theorem stepRunsDecodedInstruction : Obligations.StepRunsDecodedInstruction := by
  intro i s hs hdecode
  have hbytes := encodeOfDecode _ _ _ hdecode
  rw [List.append_nil] at hbytes
  have ⟨hfault, hnmi, _⟩ := hs
  have hstep := step_instr hfault hnmi (takesIrq_of_runsInstruction hs)
  rw [executeInstruction_of_fetchBytes hbytes.symm] at hstep
  exact hstep

end Sys2Proof.Claims
end

section
/-! PROOFS. The PPU's ports (O46) and the two pairs of port writes (O47). -/

namespace Sys2Proof.Claims

open Sys2Proof.Machine

/-! The data port. -/

/-- A PPUDATA write is a PPU write at the VRAM address, which then advances (61_ppu R1111). -/
theorem ppuDataWrite_eq (v : Byte) (s : State) : ppuDataWrite v s =
    { ppuWrite s.ppu.vaddr.toNat v s with ppu := { (ppuWrite s.ppu.vaddr.toNat v s).ppu with vaddr := s.ppu.vaddr + s.ppu.inc } } := by
  simp only [ppuDataWrite, ppuWrite_mod]

/-- Below the palette a PPUDATA read answers the read buffer and refills it from the address (61_ppu R1110). -/
theorem ppuDataRead_buffered {s : State} (h : s.ppu.vaddr.toNat % 0x4000 < 0x3F00) : ppuDataRead s =
    (s.ppu.readBuffer,
      { s with ppu := { s.ppu with readBuffer := ppuRead s s.ppu.vaddr.toNat, vaddr := s.ppu.vaddr + s.ppu.inc } }) := by
  simp only [ppuDataRead, if_neg (Nat.not_le.mpr h), ppuRead_mod]

/-- A PPUDATA read of the palette answers the entry at once (61_ppu R1110). -/
theorem ppuDataRead_palette {s : State} (h : 0x3F00 ≤ s.ppu.vaddr.toNat % 0x4000) : ppuDataRead s =
    (ppuRead s s.ppu.vaddr.toNat,
      { s with ppu := { s.ppu with
        readBuffer := ppuRead s (s.ppu.vaddr.toNat % 0x4000 - 0x1000), vaddr := s.ppu.vaddr + s.ppu.inc } }) := by
  simp only [ppuDataRead, if_pos h, ppuRead_mod]

/-! The toggled ports, one equation for each value of the toggle. -/

theorem scrollWrite_first {p : Ppu} (h : p.w = false) (v : Byte) : p.scrollWrite v =
    { p with taddr := (p.taddr &&& ~~~0x001F#15) ||| (v >>> 3).setWidth 15, fineX := v.setWidth 3, w := true } := by
  simp only [Ppu.scrollWrite, h, Bool.false_eq_true, if_false]

theorem scrollWrite_second {p : Ppu} (h : p.w = true) (v : Byte) : p.scrollWrite v =
    { p with
      taddr := (p.taddr &&& ~~~0x73E0#15) ||| ((v &&& 0x07).setWidth 15 <<< 12) ||| ((v >>> 3).setWidth 15 <<< 5), w := false } := by
  simp only [Ppu.scrollWrite, h, if_true]

theorem addrWrite_first {p : Ppu} (h : p.w = false) (v : Byte) : p.addrWrite v =
    { p with taddr := (p.taddr &&& 0x00FF#15) ||| ((v &&& 0x3F).setWidth 15 <<< 8), w := true } := by
  simp only [Ppu.addrWrite, h, Bool.false_eq_true, if_false]

theorem addrWrite_second {p : Ppu} (h : p.w = true) (v : Byte) : p.addrWrite v =
    { p with
      taddr := (p.taddr &&& 0x7F00#15) ||| v.setWidth 15, vaddr := (p.taddr &&& 0x7F00#15) ||| v.setWidth 15, w := false } := by
  simp only [Ppu.addrWrite, h, if_true]

/-- PPUCTRL raises the NMI latch when it enables NMI during vblank (61_ppu R1113). -/
theorem ppuCtrlWrite_eq (v : Byte) (s : State) : ppuCtrlWrite v s =
    { s with
      ppu := { s.ppu with ctrl := v, taddr := (s.ppu.taddr &&& ~~~0x0C00#15) ||| ((v &&& 0x03).setWidth 15 <<< 10) }
      cpu := { s.cpu with
        nmiPending := s.cpu.nmiPending || (s.ppu.ctrl.getLsbD 7 == false && v.getLsbD 7 == true && s.ppu.vblank == true) } } := by
  simp only [ppuCtrlWrite, Config.nmiOnCtrlEnable, Bool.true_and, beq_false, beq_true]

/-- Settles O46: each port by its own equation, at whatever mirror. -/
theorem ppuPorts : Obligations.PpuPorts := by
  intro a v s h h'
  refine ⟨fun hk => busRead_writeOnlyPort h h' (by omega) s, fun hk => ?_, fun hk hv => ?_, fun hk hv => ?_, fun hk => ?_, fun hk => ?_,
    fun hk => ?_, fun hk => ?_, fun hk => ?_, fun hk => ?_, fun hk hw => ?_, fun hk hw => ?_, fun hk hw => ?_, fun hk hw => ?_,
    fun hk => ?_⟩
  · rw [busRead_ppuPort h h', hk]
    rfl
  · rw [busRead_ppuPort h h', hk, ppuPortRead, ppuDataRead_buffered hv]
    rfl
  · rw [busRead_ppuPort h h', hk, ppuPortRead, ppuDataRead_palette hv]
    rfl
  · rw [busWrite_ppuPort h h', hk]
    exact ppuDataWrite_eq v s
  · rw [busWrite_ppuPort h h', hk]
    rfl
  · rw [busWrite_ppuPort h h', hk]
    rfl
  · rw [busRead_ppuPort h h', hk]
    exact ⟨rfl, rfl⟩
  · rw [busWrite_ppuPort h h', hk]
    rfl
  · rw [busWrite_ppuPort h h', hk]
    rfl
  · rw [busWrite_ppuPort h h', hk, ppuPortWrite, scrollWrite_first hw]
  · rw [busWrite_ppuPort h h', hk, ppuPortWrite, scrollWrite_second hw]
  · rw [busWrite_ppuPort h h', hk, ppuPortWrite, addrWrite_first hw]
  · rw [busWrite_ppuPort h h', hk, ppuPortWrite, addrWrite_second hw]
  · rw [busWrite_ppuPort h h', hk]
    exact ppuCtrlWrite_eq v s

/-! The pairs of writes in the layout of 61_ppu R1115. -/

/-- `taddr` after both PPUSCROLL writes (61_ppu R1108). -/
def scrolled (t : BitVec 15) (x y : Byte) : BitVec 15 :=
  ((t &&& ~~~0x001F#15 ||| (x >>> 3).setWidth 15) &&& ~~~0x73E0#15) ||| ((y &&& 0x07).setWidth 15 <<< 12) ||| ((y >>> 3).setWidth 15 <<< 5)

/-- `taddr` after both PPUADDR writes (61_ppu R1109). -/
def addressed (t : BitVec 15) (x y : Byte) : BitVec 15 :=
  ((t &&& 0x00FF#15 ||| ((x &&& 0x3F).setWidth 15 <<< 8)) &&& 0x7F00#15) ||| y.setWidth 15

theorem busWrite_scrollPair (x y : Byte) {s : State} (h : s.ppu.w = false) : busWrite 0x2005 y (busWrite 0x2005 x s) =
    { s with ppu := { s.ppu with taddr := scrolled s.ppu.taddr x y, fineX := x.setWidth 3, w := false } } := by
  have hwrite (v : Byte) (t : State) : busWrite 0x2005 v t = { t with ppu := t.ppu.scrollWrite v } := rfl
  rw [hwrite, hwrite, scrollWrite_first h, scrollWrite_second rfl]
  rfl

theorem busWrite_addrPair (x y : Byte) {s : State} (h : s.ppu.w = false) : busWrite 0x2006 y (busWrite 0x2006 x s) =
    { s with ppu := { s.ppu with
      taddr := addressed s.ppu.taddr x y, vaddr := addressed s.ppu.taddr x y, w := false } } := by
  have hwrite (v : Byte) (t : State) : busWrite 0x2006 v t = { t with ppu := t.ppu.addrWrite v } := rfl
  rw [hwrite, hwrite, addrWrite_first h, addrWrite_second rfl]
  rfl

/-- A field of `n` bits from bit `k` up, as a number. -/
theorem toNat_field {w k n : Nat} {t : BitVec w} {f : BitVec n} (h : t.extractLsb' k n = f) : t.toNat / 2 ^ k % 2 ^ n = f.toNat := by
  rw [← h, BitVec.extractLsb'_toNat, Nat.shiftRight_eq_div_pow]

/-- The four fields of a scrolled `taddr`, bit by bit. -/
theorem scrolled_fields (t : BitVec 15) (x y : Byte) :
    (scrolled t x y).extractLsb' 0 5 = (x >>> 3).setWidth 5 ∧ (scrolled t x y).extractLsb' 5 5 = (y >>> 3).setWidth 5 ∧
      (scrolled t x y).extractLsb' 10 2 = t.extractLsb' 10 2 ∧ (scrolled t x y).extractLsb' 12 3 = y.setWidth 3 := by
  unfold scrolled
  refine ⟨?_, ?_, ?_, ?_⟩
  all_goals
    ext i hi
    interval_cases i <;> simp

/-- The two bytes of an addressed `taddr`, bit by bit. -/
theorem addressed_fields (t : BitVec 15) (x y : Byte) :
    (addressed t x y).extractLsb' 0 8 = y ∧ (addressed t x y).extractLsb' 8 7 = (x.setWidth 6).setWidth 7 := by
  unfold addressed
  refine ⟨?_, ?_⟩
  all_goals
    ext i hi
    interval_cases i <;> simp

theorem toNat_coarse (v : Byte) : ((v >>> 3).setWidth 5).toNat = v.toNat / 8 := by
  rw [BitVec.toNat_setWidth, BitVec.toNat_ushiftRight, Nat.shiftRight_eq_div_pow]
  omega

/-- Settles O47: both pairs in closed form, their fields by `scrolled_fields` and `addressed_fields`. -/
theorem scrollAndAddressPairs : Obligations.ScrollAndAddressPairs := by
  intro x y s hw
  rw [busWrite_scrollPair x y hw, busWrite_addrPair x y hw]
  constructor
  · obtain ⟨hcx, hcy, hnt, hfy⟩ := scrolled_fields s.ppu.taddr x y
    have hcx := toNat_field hcx
    have hcy := toNat_field hcy
    have hnt := (toNat_field hnt).trans (toNat_field rfl).symm
    have hfy := toNat_field hfy
    rw [toNat_coarse] at hcx hcy
    rw [BitVec.toNat_setWidth] at hfy
    refine ⟨?_, BitVec.toNat_setWidth .., hcy, ?_, hnt, rfl, rfl⟩ <;> dsimp only <;> omega
  · obtain ⟨hlow, hhigh⟩ := addressed_fields s.ppu.taddr x y
    have hlow := toNat_field hlow
    have hhigh := toNat_field hhigh
    rw [BitVec.toNat_setWidth, BitVec.toNat_setWidth] at hhigh
    refine ⟨?_, rfl, rfl, rfl⟩
    dsimp only
    omega

end Sys2Proof.Claims
end

section
/-! PROOFS. The PPU's cycle: vblank (O49) and the position (O50), from what the rendering work of a dot keeps (`renderDot_keeps`). -/

namespace Sys2Proof.Claims

open Sys2Proof.Machine

/-! The status flags of a dot (61_ppu R1123, R1124). -/

theorem flagDot_vblank {p : Ppu} (hline : p.scanline = 241) (hdot : p.dot = 1) : p.flagDot = { p with vblank := true } :=
  if_pos ⟨hline, hdot⟩

theorem flagDot_preRender {p : Ppu} (hline : p.scanline = 261) (hdot : p.dot = 1) :
    p.flagDot = { p with vblank := false, sprite0Hit := false, spriteOverflow := false } := by
  rw [Ppu.flagDot, if_neg (by omega), if_pos ⟨hline, hdot⟩]

theorem flagDot_plain {p : Ppu} (hvblank : ¬(p.scanline = 241 ∧ p.dot = 1)) (hpre : ¬(p.scanline = 261 ∧ p.dot = 1)) :
    p.flagDot = p := by
  rw [Ppu.flagDot, if_neg hvblank, if_neg hpre]

theorem entersVblank_iff (p : Ppu) : p.entersVblank = true ↔ p.scanline = 241 ∧ p.dot = 1 := by
  simp only [Ppu.entersVblank, Bool.and_eq_true, beq_iff_eq]

/-- `Advance()` moves the position only (61_ppu R1122). -/
theorem advance_does (p : Ppu) : ∃ d l o, p.advance = { p with dot := d, scanline := l, oddFrame := o } := by
  unfold Ppu.advance
  split_ifs <;> exact ⟨_, _, _, rfl⟩

/-- The flags of a dot leave the position and the mask alone. -/
theorem flagDot_position (p : Ppu) : p.flagDot.dot = p.dot ∧ p.flagDot.scanline = p.scanline ∧ p.flagDot.oddFrame = p.oddFrame ∧
    p.flagDot.mask = p.mask := by
  unfold Ppu.flagDot
  split_ifs <;> exact ⟨rfl, rfl, rfl, rfl⟩

/-- Settles O49: the flags by the dot's case, the signals by `ppuTick_eq`. -/
theorem vblankTiming : Obligations.VblankTiming := by
  intro s
  have keeps := s.ppu.renderDot_keeps (ppuRead s)
  rw [ppuTick_eq]
  obtain ⟨d, l, o, hadvance⟩ := advance_does (s.ppu.renderDot (ppuRead s)).flagDot
  rw [hadvance]
  refine ⟨fun hline hdot => ?_, fun hline hdot => ?_, fun hvblank => ?_, fun hvblank hpre => ?_⟩
  · rw [flagDot_vblank (keeps.scanline.trans hline) (keeps.dot.trans hdot), (entersVblank_iff s.ppu).mpr ⟨hline, hdot⟩]
    refine ⟨rfl, ?_, ?_⟩
    · simp only [keeps.ctrl, Bool.true_and]
    · simp only [keeps.picture (by omega), if_true]
  · rw [flagDot_preRender (keeps.scanline.trans hline) (keeps.dot.trans hdot)]
    exact ⟨rfl, rfl, rfl⟩
  · rw [Bool.eq_false_iff.mpr (mt (entersVblank_iff s.ppu).mp hvblank)]
    simp
  · rw [flagDot_plain (by rwa [keeps.scanline, keeps.dot]) (by rwa [keeps.scanline, keeps.dot])]
    exact ⟨keeps.vblank, keeps.hit, keeps.overflow⟩

/-! The position (61_ppu R1120, R1122). -/

/-- The number of a dot in its frame. -/
def dotNumber (p : Ppu) : Nat := p.scanline * 341 + p.dot

/-- The dot an odd frame skips while rendering is the one after line 261, dot 339 (61_ppu R1122). -/
def skipsDot (p : Ppu) : Prop := p.scanline = 261 ∧ p.dot = 339 ∧ p.oddFrame = true ∧ p.rendering = true

/-- A PPU cycle ends with `Advance()`, from the position and the mask it began with. -/
theorem ppuTick_advance (s : State) : ∃ q : Ppu, (ppuTick s).ppu = q.advance ∧ q.dot = s.ppu.dot ∧ q.scanline = s.ppu.scanline ∧
    q.oddFrame = s.ppu.oddFrame ∧ q.rendering = s.ppu.rendering := by
  have keeps := s.ppu.renderDot_keeps (ppuRead s)
  obtain ⟨hdot, hline, hodd, hmask⟩ := flagDot_position (s.ppu.renderDot (ppuRead s))
  refine ⟨_, congrArg State.ppu (ppuTick_eq s), hdot.trans keeps.dot, hline.trans keeps.scanline, hodd.trans keeps.oddFrame, ?_⟩
  rw [Ppu.rendering, hmask, keeps.mask, Ppu.rendering]

theorem advance_skip {p : Ppu} (h : skipsDot p) : p.advance = { p with dot := 0, scanline := 0, oddFrame := false } := if_pos h

/-- Every other advance adds one to the dot's number, wrapping from 89341 to dot 0 of a frame of the other parity. -/
theorem advance_count {p : Ppu} (hdot : p.dot ≤ 340) (hline : p.scanline ≤ 261) (h : ¬skipsDot p) :
    p.advance.dot ≤ 340 ∧ p.advance.scanline ≤ 261 ∧ dotNumber p.advance = (dotNumber p + 1) % 89342 ∧
      p.advance.oddFrame = (if dotNumber p = 89341 then !p.oddFrame else p.oddFrame) := by
  unfold skipsDot at h
  rw [Ppu.advance, if_neg h]
  unfold dotNumber
  by_cases hlast : p.dot + 1 = 341
  · rw [if_pos hlast]
    by_cases hframe : p.scanline + 1 = 262
    · rw [if_pos hframe, if_pos (by omega)]
      dsimp only
      exact ⟨by omega, by omega, by omega, rfl⟩
    · rw [if_neg hframe, if_neg (by omega)]
      dsimp only
      exact ⟨by omega, by omega, by omega, rfl⟩
  · rw [if_neg hlast, if_neg (by omega)]
    dsimp only
    exact ⟨by omega, by omega, by omega, rfl⟩

theorem skipsDot_iff {p : Ppu} (hdot : p.dot ≤ 340) :
    skipsDot p ↔ dotNumber p = 261 * 341 + 339 ∧ p.oddFrame = true ∧ p.rendering = true := by
  have hnumber : (p.scanline = 261 ∧ p.dot = 339) ↔ dotNumber p = 261 * 341 + 339 := by
    unfold dotNumber
    omega
  rw [skipsDot, ← hnumber, and_assoc]

/-- Settles O50: the skipped dot by `advance_skip`, every other by `advance_count`. -/
theorem ppuPosition : Obligations.PpuPosition := by
  intro s hdot hline
  obtain ⟨q, htick, hqdot, hqline, hqodd, hqrendering⟩ := ppuTick_advance s
  rw [← hqdot] at hdot
  rw [← hqline] at hline
  rw [htick, ← hqdot, ← hqline, ← hqodd, ← hqrendering]
  have hskip := skipsDot_iff hdot
  by_cases h : skipsDot q
  · rw [advance_skip h]
    exact ⟨Nat.zero_le _, Nat.zero_le _, fun hno => absurd (hskip.mp h) hno, fun _ => ⟨rfl, rfl, rfl⟩⟩
  · obtain ⟨hd, hl, hcount, hodd⟩ := advance_count hdot hline h
    exact ⟨hd, hl, fun _ => ⟨hcount, hodd⟩, fun hyes => absurd (hskip.mpr hyes) h⟩

end Sys2Proof.Claims
end

section
/-! PROOFS. Sprite evaluation (O51): one equation per case of the scan, then what the scan of a list leaves, by induction on it. -/

namespace Sys2Proof.Claims

open Sys2Proof.Machine

/-- Whether the rows of sprite `i`, `h` of them, meet the line (61_ppu R1140). -/
def onLine (h : Nat) (p : Ppu) (i : Nat) : Bool :=
  decide ((p.oam.read (4 * i)).toNat ≤ p.scanline ∧ p.scanline < (p.oam.read (4 * i)).toNat + h)

/-- The buffer as `SpriteDot257()` clears it (61_ppu R1140). -/
def emptied (p : Ppu) : Ppu := { p with sprCount := 0, sprZeroInLine := false }

/-- The PPU with sprite `i` taken into the slots given (61_ppu R1140). -/
def taking (slots : Vector SpriteSlot 8) (i : Nat) (p : Ppu) : Ppu :=
  { p with slots := slots, sprCount := p.sprCount + 1, sprZeroInLine := p.sprZeroInLine || i == 0 }

/-! The scan of one sprite. -/

section Scan

variable (rd : Nat → Byte) {h : Nat} {p : Ppu}

theorem onLine_iff (i : Nat) : onLine h p i = true ↔
    (p.oam.read (4 * i)).toNat ≤ p.scanline ∧ p.scanline - (p.oam.read (4 * i)).toNat < h := by
  rw [onLine, decide_eq_true_eq]
  omega

theorem spriteScan_off {i : Nat} (hi : onLine h p i = false) (l : List Nat) : p.spriteScan rd h (i :: l) = p.spriteScan rd h l := by
  rw [Ppu.spriteScan, if_neg (mt (onLine_iff i).mpr (Bool.eq_false_iff.mp hi))]

theorem spriteScan_ninth {i : Nat} (hi : onLine h p i = true) (hfull : p.sprCount = 8) (l : List Nat) :
    p.spriteScan rd h (i :: l) = { p with spriteOverflow := true } := by
  rw [Ppu.spriteScan, if_pos ((onLine_iff i).mp hi), if_pos hfull]

theorem spriteScan_taken {i : Nat} (hi : onLine h p i = true) (hroom : p.sprCount ≠ 8) (l : List Nat) :
    ∃ slots, p.spriteScan rd h (i :: l) =
      (taking slots i p).spriteScan rd h l := by
  rw [Ppu.spriteScan, if_pos ((onLine_iff i).mp hi), if_neg hroom]
  exact ⟨_, rfl⟩

/-! The scan of a list. -/

variable (h) in
/-- The scan takes the first 8 sprites on the line and notes whether there is a ninth (61_ppu R1140). -/
theorem spriteScan_counts (l : List Nat) (hcount : p.sprCount ≤ 8) :
    (p.spriteScan rd h l).oamAddr = p.oamAddr ∧
    (p.spriteScan rd h l).sprCount = min 8 (p.sprCount + l.countP (onLine h p)) ∧
    (p.spriteScan rd h l).spriteOverflow = (p.spriteOverflow || decide (8 < p.sprCount + l.countP (onLine h p))) := by
  induction l generalizing p with
  | nil =>
    have hfew : ¬8 < p.sprCount := Nat.not_lt.mpr hcount
    simp only [Ppu.spriteScan, List.countP_nil, Nat.add_zero, hfew, decide_false, Bool.or_false, min_eq_right hcount, and_self]
  | cons i l ih =>
    cases hi : onLine h p i with
    | false =>
      rw [spriteScan_off rd hi, List.countP_cons_of_neg (by simp [hi])]
      exact ih hcount
    | true =>
      rw [List.countP_cons_of_pos hi]
      by_cases hfull : p.sprCount = 8
      · have hmore : 8 < p.sprCount + (l.countP (onLine h p) + 1) := by omega
        rw [spriteScan_ninth rd hi hfull]
        exact ⟨rfl, by dsimp only; omega, by simp only [hmore, decide_true, Bool.or_true]⟩
      · obtain ⟨slots, htaken⟩ := spriteScan_taken rd hi hfull l
        have hsum : p.sprCount + (l.countP (onLine h p) + 1) = p.sprCount + 1 + l.countP (onLine h p) := by omega
        have hnext := @ih (taking slots i p) (by dsimp only [taking]; omega)
        rw [htaken, hsum]
        exact hnext

/-- Only sprite 0 changes the mark of sprite 0. -/
theorem spriteScan_zero_of_not_mem {l : List Nat} (hl : 0 ∉ l) : (p.spriteScan rd h l).sprZeroInLine = p.sprZeroInLine := by
  induction l generalizing p with
  | nil => rfl
  | cons i l ih =>
    rw [List.mem_cons, not_or] at hl
    obtain ⟨hne, hl⟩ := hl
    cases hi : onLine h p i with
    | false => rw [spriteScan_off rd hi, ih hl]
    | true =>
      by_cases hfull : p.sprCount = 8
      · rw [spriteScan_ninth rd hi hfull]
      · obtain ⟨slots, htaken⟩ := spriteScan_taken rd hi hfull l
        rw [htaken, ih hl]
        simp only [taking, beq_eq_false_iff_ne.mpr (Ne.symm hne), Bool.or_false]

/-- From an empty buffer the mark of sprite 0 says that it is on the line. -/
theorem spriteScan_zero {l : List Nat} (hl : 0 ∉ l) (hempty : p.sprCount = 0) (hclear : p.sprZeroInLine = false) :
    (p.spriteScan rd h (0 :: l)).sprZeroInLine = onLine h p 0 := by
  cases hi : onLine h p 0 with
  | false => rw [spriteScan_off rd hi, spriteScan_zero_of_not_mem rd hl, hclear]
  | true =>
    obtain ⟨slots, htaken⟩ := spriteScan_taken rd hi (by omega) l
    rw [htaken, spriteScan_zero_of_not_mem rd hl]
    exact Bool.or_true _

variable (h p) in
/-- The scan of the 64 sprites of OAM from an empty buffer (61_ppu R1140). -/
theorem spriteScan_emptied :
    let q := (emptied p).spriteScan rd h (List.range 64)
    let n := (List.range 64).countP (onLine h p)
    q.oamAddr = p.oamAddr ∧ q.sprCount = min 8 n ∧ q.spriteOverflow = (p.spriteOverflow || decide (8 < n)) ∧
      q.sprZeroInLine = onLine h p 0 := by
  have hsplit : List.range 64 = 0 :: (List.range 63).map Nat.succ := List.range_succ_eq_map
  have hzero : ((emptied p).spriteScan rd h (List.range 64)).sprZeroInLine = onLine h p 0 := by
    rw [hsplit]
    exact spriteScan_zero rd (by simp) rfl rfl
  have hstart : (emptied p).sprCount + (List.range 64).countP (onLine h (emptied p)) = (List.range 64).countP (onLine h p) :=
    Nat.zero_add _
  obtain ⟨haddr, hcount, hover⟩ := spriteScan_counts rd h (p := emptied p) (List.range 64) (Nat.zero_le 8)
  rw [hstart] at hcount hover
  exact ⟨haddr, hcount, hover, hzero⟩

end Scan

theorem spriteDot257_rendering (rd : Nat → Byte) {p : Ppu} (hr : p.rendering = true) (hl : p.scanline ≤ 239) : p.spriteDot257 rd =
    (emptied p).spriteScan rd (if p.ctrl.getLsbD 5 then 16 else 8) (List.range 64) :=
  if_pos (by simp only [hr, hl, decide_true, Bool.and_self])

theorem spriteDot257_idle (rd : Nat → Byte) {p : Ppu} (h : ¬(p.rendering = true ∧ p.scanline ≤ 239)) :
    p.spriteDot257 rd = emptied p :=
  if_neg (by simpa only [Bool.and_eq_true, decide_eq_true_eq] using h)

/-- Settles O51: the scan of the 64 sprites from an empty buffer, or the empty buffer itself. -/
theorem spriteEvaluation : Obligations.SpriteEvaluation := by
  intro rd p h hit q
  obtain ⟨hoam, -⟩ := p.spriteDot257_frame rd
  refine ⟨hoam, ?_⟩
  by_cases hline : p.rendering = true ∧ p.scanline ≤ 239
  · have ⟨hr, hl⟩ := hline
    obtain ⟨haddr, hscan⟩ := spriteScan_emptied rd h p
    rw [← spriteDot257_rendering rd hr hl] at haddr hscan
    exact ⟨haddr, fun _ _ => hscan, fun hno => absurd hline hno⟩
  · have hq : q = emptied p := spriteDot257_idle rd hline
    rw [hq]
    exact ⟨rfl, fun hr hl => absurd ⟨hr, hl⟩ hline, fun _ => ⟨rfl, rfl, rfl⟩⟩

end Sys2Proof.Claims
end

section
/-! PROOFS. OAM DMA (O52): from a page of memory the copy is 256 writes of OAM, and its reads touch `openBus` alone. -/

namespace Sys2Proof.Claims

open Sys2Proof.Machine

/-- Whether an address is memory is a matter of its page. -/
theorem isMemory_mkWord (s : State) (v i : Byte) : s.isMemory (mkWord v i) =
    (decide (v.toNat ≤ 0x1F) || decide (0x80 ≤ v.toNat) || (decide (0x60 ≤ v.toNat) && s.cart.prgRamPresent)) := by
  have hram : v.toNat * 256 + i.toNat ≤ 0x1FFF ↔ v.toNat ≤ 0x1F := by omega
  have hrom : 0x8000 ≤ v.toNat * 256 + i.toNat ↔ 0x80 ≤ v.toNat := by omega
  have hprg : 0x6000 ≤ v.toNat * 256 + i.toNat ↔ 0x60 ≤ v.toNat := by omega
  simp only [State.isMemory, mkWord_toNat, hram, hrom, hprg]

theorem busRead_of_memoryAt {s : State} {a : Word} {b : Byte} (h : memoryAt s a = some b) : busRead a s = (b, s.setOpenBus b) := by
  have hmemory : s.isMemory a = true := by
    by_contra hno
    rw [memoryAt, if_neg hno] at h
    cases h
  obtain ⟨c, hc, hread⟩ := busRead_memory hmemory
  rw [h] at hc
  cases hc
  exact hread

/-- Byte `i` of page `v`, as the bus reads it. -/
def pageByte (v : Byte) (s : State) (i : Nat) : Byte := (busRead (mkWord v (BitVec.ofNat 8 i)) s).1

theorem memoryAt_pageByte {v : Byte} {s : State} (h : s.isMemory (mkWord v 0) = true) (i : Nat) :
    memoryAt s (mkWord v (BitVec.ofNat 8 i)) = some (pageByte v s i) := by
  rw [isMemory_mkWord] at h
  exact if_pos ((isMemory_mkWord s v _).trans h)

/-- OAM after the bytes `b` of the places listed are copied, each at its place counted from `base` (61_ppu R1150). -/
def oamCopied (b : Nat → Byte) (base : Nat) : List Nat → Mem → Mem
  | [], m => m
  | i :: l, m => oamCopied b base l (m.write ((base + i) % 256) (b i))

/-- The places listed hold their bytes, the others what they held. -/
theorem oamCopied_read (b : Nat → Byte) (base : Nat) {i : Nat} (hi : i < 256) {l : List Nat} (hl : ∀ j ∈ l, j < 256) {m : Mem}
    (hm : Mem.wf 256 m = true) :
    (oamCopied b base l m).read ((base + i) % 256) = if i ∈ l then b i else m.read ((base + i) % 256) := by
  induction l generalizing m with
  | nil => rfl
  | cons j l ih =>
    obtain ⟨hj, hl⟩ := List.forall_mem_cons.mp hl
    have hplace : (base + i) % 256 = (base + j) % 256 ↔ i = j := by omega
    rw [oamCopied, ih hl (Mem.write_wf hm (Nat.mod_lt _ (by decide)) _), Mem.read_write hm]
    simp only [hplace, List.mem_cons]
    by_cases hij : i = j
    · subst hij
      simp only [if_true, ite_self, true_or]
    · simp only [hij, if_false, false_or]

/-- The copy of a page of memory in closed form, `b` being the page's bytes. -/
theorem oamDmaCopy_eq {v : Byte} {b : Nat → Byte} (l : List Nat) {s : State}
    (hb : ∀ i, memoryAt s (mkWord v (BitVec.ofNat 8 i)) = some (b i)) : oamDmaCopy v l s =
      { s with
        ppu := { s.ppu with oam := oamCopied b s.ppu.oamAddr.toNat l s.ppu.oam }, openBus := (l.map b).getLastD s.openBus } := by
  induction l generalizing s with
  | nil => rfl
  | cons i l ih =>
    have hbyte : oamDmaByte v i s = { s with
        ppu := { s.ppu with oam := s.ppu.oam.write ((s.ppu.oamAddr.toNat + i) % 256) (b i) }, openBus := b i } := by
      simp only [oamDmaByte, busRead_of_memoryAt (hb i)]
      rfl
    have hkept (j : Nat) : memoryAt (oamDmaByte v i s) (mkWord v (BitVec.ofNat 8 j)) = some (b j) :=
      (memoryAt_congr (by simp [oamDmaByte]) (by simp [oamDmaByte]) _).trans (hb j)
    rw [oamDmaCopy, ih hkept, hbyte, List.map_cons, List.getLastD_cons]
    rfl

/-- Settles O52: the copy by `oamDmaCopy_eq`, each byte of OAM by `oamCopied_read`. -/
theorem oamDma : Obligations.OamDma := by
  intro v s hs hpage
  have hbytes := memoryAt_pageByte hpage
  obtain ⟨-, -, -, hoam, -⟩ := hs.ppu
  rw [busWrite_4014, Machine.oamDma, oamDmaCopy_eq (List.range 256) hbytes]
  refine ⟨fun i hi => ?_, hbytes 255, ?_⟩
  · rw [hbytes]
    dsimp only [State.addStall]
    rw [oamCopied_read _ _ hi (fun j => List.mem_range.mp) hoam, if_pos (List.mem_range.mpr hi)]
  · simp only [State.addStall, Config.oamDmaStall, Nat.add_assoc]

end Sys2Proof.Claims
end

section
/-! PROOFS. The APU's cycle (O53, O54): the frame sequencer and the length counters, which nothing else of the cycle touches. -/

namespace Sys2Proof.Claims

open Sys2Proof.Machine

/-- The four length counters, each with its halt (62_apu R1214). -/
def lengthsOf (a : Apu) : List (Bool × Byte) :=
  [(a.pulse1.halt, a.pulse1.length), (a.pulse2.halt, a.pulse2.length), (a.triangle.control, a.triangle.length),
    (a.noise.halt, a.noise.length)]

/-- What the APU's cycle leaves to the frame sequencer: the sequencer's own fields (62_apu R1211) and the length counters. -/
structure CountsKept (a b : Apu) : Prop where
  frameCycle : b.frameCycle = a.frameCycle
  seqMode : b.seqMode = a.seqMode
  irqInhibit : b.irqInhibit = a.irqInhibit
  frameIrq : b.frameIrq = a.frameIrq
  lengths : lengthsOf b = lengthsOf a

theorem CountsKept.trans {a b c : Apu} (h : CountsKept a b) (k : CountsKept b c) : CountsKept a c :=
  ⟨k.frameCycle.trans h.frameCycle, k.seqMode.trans h.seqMode, k.irqInhibit.trans h.irqInhibit, k.frameIrq.trans h.frameIrq,
    k.lengths.trans h.lengths⟩

/-! The cycle before and after the sequencer. -/

theorem clockTimer_pulse (p : Pulse) : p.clockTimer.halt = p.halt ∧ p.clockTimer.length = p.length := by
  unfold Pulse.clockTimer
  split <;> exact ⟨rfl, rfl⟩

theorem clockTimer_triangle (t : Triangle) : t.clockTimer.control = t.control ∧ t.clockTimer.length = t.length := by
  unfold Triangle.clockTimer
  split <;> exact ⟨rfl, rfl⟩

theorem clockTimer_noise (n : Noise) : n.clockTimer.halt = n.halt ∧ n.clockTimer.length = n.length := by
  unfold Noise.clockTimer
  split <;> exact ⟨rfl, rfl⟩

theorem clockTimers_keeps (a : Apu) : CountsKept a a.clockTimers :=
  ⟨rfl, rfl, rfl, rfl, by simp only [lengthsOf, Apu.clockTimers, clockTimer_pulse, clockTimer_noise]⟩

/-- The DMC reads the upper half of the CPU's space only, so its reads never acknowledge the frame interrupt. -/
theorem dmcTimer_keeps {s : State} (h : 0x8000 ≤ s.apu.dmc.currentAddr.toNat) : CountsKept s.apu (dmcTimer s).apu := by
  obtain ⟨_, _, _, _, _, hdmc⟩ := dmcTimer_does h
  rw [hdmc]
  exact ⟨rfl, rfl, rfl, rfl, rfl⟩

theorem accumulateSample_keeps (s : State) : CountsKept s.apu (accumulateSample s).apu := by
  unfold accumulateSample
  split <;> exact ⟨rfl, rfl, rfl, rfl, rfl⟩

/-- An APU cycle is its frame sequencer between timers and a mix that keep the counts (62_apu R1201). -/
theorem apuTick_sequencer {s : State} (h : 0x8000 ≤ s.apu.dmc.currentAddr.toNat) :
    ∃ t : State, CountsKept s.apu t.apu ∧ CountsKept (frameSequencer t).apu (apuTick s).apu := by
  let t : State := { s with apu := { s.apu with triangle := s.apu.triangle.clockTimer } }
  have htriangle : CountsKept s.apu t.apu := ⟨rfl, rfl, rfl, rfl, by simp only [t, lengthsOf, clockTimer_triangle]⟩
  have hdmc : CountsKept t.apu (dmcTimer { t with apu := t.apu.clockTimers }).apu :=
    (clockTimers_keeps t.apu).trans (dmcTimer_keeps (s := { t with apu := t.apu.clockTimers }) h)
  have hphase (a : Apu) : CountsKept a { a with cpuPhase := !s.apu.cpuPhase } := ⟨rfl, rfl, rfl, rfl, rfl⟩
  refine ⟨_, CountsKept.trans ?_ (hphase _), accumulateSample_keeps _⟩
  split
  · exact htriangle.trans hdmc
  · exact htriangle

/-! The sequencer. -/

/-- The frames a sequencer event clocks (62_apu R1211). -/
def framesClocked (e : SequencerEvent) (a : Apu) : Apu :=
  let b := if e.quarter then a.quarterFrame else a
  if e.half then b.halfFrame else b

theorem framesClocked_sequencer (e : SequencerEvent) (a : Apu) :
    (framesClocked e a).frameCycle = a.frameCycle ∧ (framesClocked e a).seqMode = a.seqMode ∧
      (framesClocked e a).irqInhibit = a.irqInhibit ∧ (framesClocked e a).frameIrq = a.frameIrq := by
  unfold framesClocked
  split_ifs <;> exact ⟨rfl, rfl, rfl, rfl⟩

theorem clockSweep_halt (one : Bool) (p : Pulse) : (p.clockSweep one).halt = p.halt := by
  unfold Pulse.clockSweep
  simp only
  split <;> rfl

/-- A half frame clocks each length counter under its own halt (62_apu R1210, R1214). -/
theorem lengthsOf_halfFrame (a : Apu) : lengthsOf a.halfFrame = (lengthsOf a).map fun c => (c.1, clockLength c.1 c.2) := by
  simp only [lengthsOf, Apu.halfFrame, Pulse.half, Triangle.half, Noise.half, clockSweep_halt, List.map]

/-- A quarter frame clocks no length counter. -/
theorem lengthsOf_framesClocked (e : SequencerEvent) (a : Apu) : lengthsOf (framesClocked e a) =
    if e.half then (lengthsOf a).map fun c => (c.1, clockLength c.1 c.2) else lengthsOf a := by
  have hquarter : lengthsOf (if e.quarter then a.quarterFrame else a) = lengthsOf a := by split <;> rfl
  unfold framesClocked
  simp only
  split
  · rw [lengthsOf_halfFrame, hquarter]
  · exact hquarter

/-- The frame sequencer in one equation on the APU (62_apu R1211). -/
theorem frameSequencer_apu (s : State) :
    let n := s.apu.frameCycle + 1
    let e := sequencerEvent s.apu.seqMode n
    let a := framesClocked e { s.apu with frameCycle := if e.wrap then 0 else n }
    (frameSequencer s).apu =
      { a with frameIrq := a.frameIrq || (!s.apu.seqMode && !s.apu.irqInhibit && s.apu.frameCycle == 29828) } := by
  intro n e a
  have hraise : (s.apu.seqMode = false ∧ n = 29829 ∧ s.apu.irqInhibit = false) ↔
      (!s.apu.seqMode && !s.apu.irqInhibit && s.apu.frameCycle == 29828) = true := by
    have hn : n = 29829 ↔ s.apu.frameCycle = 29828 := Nat.succ_inj
    simp only [Bool.and_eq_true, Bool.not_eq_true', beq_iff_eq, hn]
    tauto
  have hseq : frameSequencer s = if s.apu.seqMode = false ∧ n = 29829 ∧ s.apu.irqInhibit = false then
      raiseFrameIrq { s with apu := a } else { s with apu := a } := rfl
  rw [hseq]
  split
  case isTrue h => rw [hraise.mp h, Bool.or_true]; rfl
  case isFalse h => rw [Bool.eq_false_iff.mpr (mt hraise.mpr h), Bool.or_false]

/-- The sequencer's own fields after its call (62_apu R1211). -/
theorem frameSequencer_sequencer (s : State) :
    let a := (frameSequencer s).apu
    (a.frameCycle = if (sequencerEvent s.apu.seqMode (s.apu.frameCycle + 1)).wrap then 0 else s.apu.frameCycle + 1) ∧
      a.seqMode = s.apu.seqMode ∧ a.irqInhibit = s.apu.irqInhibit ∧
      a.frameIrq = (s.apu.frameIrq || (!s.apu.seqMode && !s.apu.irqInhibit && s.apu.frameCycle == 29828)) := by
  simp only [frameSequencer_apu, framesClocked_sequencer, and_self]

/-- The length counters after the sequencer's call (62_apu R1211, R1214). -/
theorem lengthsOf_frameSequencer (s : State) : lengthsOf (frameSequencer s).apu =
    if (sequencerEvent s.apu.seqMode (s.apu.frameCycle + 1)).half then (lengthsOf s.apu).map fun c => (c.1, clockLength c.1 c.2)
    else lengthsOf s.apu := by
  rw [frameSequencer_apu]
  exact lengthsOf_framesClocked _ _

/-- Within its mode's period the count goes up by one and wraps at the period (62_apu R1211). -/
theorem sequencerEvent_wrap {fiveStep : Bool} {n : Nat} (h : n < if fiveStep then 37282 else 29830) :
    (if (sequencerEvent fiveStep (n + 1)).wrap then 0 else n + 1) = (n + 1) % (if fiveStep then 37282 else 29830) := by
  cases fiveStep <;> simp only [sequencerEvent, Bool.false_eq_true, if_false, if_true, beq_iff_eq] at h ⊢ <;> split <;> omega

theorem sequencerEvent_half (fiveStep : Bool) (n : Nat) : (sequencerEvent fiveStep n).half = true ↔
    n = 14913 ∨ (fiveStep = false ∧ n = 29829) ∨ (fiveStep = true ∧ n = 37281) := by
  cases fiveStep <;> simp [sequencerEvent]

/-- Settles O53: nothing else of the cycle touches the sequencer, and its count wraps at its mode's period. -/
theorem frameInterrupt : Obligations.FrameInterrupt := by
  intro s hs t
  obtain ⟨hperiod, -, -, -, haddr⟩ := hs.apu
  obtain ⟨u, before, after⟩ := apuTick_sequencer haddr
  obtain ⟨hcycle, hmode, hinhibit, hirq⟩ := frameSequencer_sequencer u
  rw [before.frameCycle, before.seqMode, sequencerEvent_wrap hperiod] at hcycle
  rw [before.frameIrq, before.seqMode, before.irqInhibit, before.frameCycle] at hirq
  exact ⟨after.frameCycle.trans hcycle, after.frameIrq.trans hirq, after.seqMode.trans (hmode.trans before.seqMode),
    after.irqInhibit.trans (hinhibit.trans before.irqInhibit)⟩

/-- Settles O54: nothing else of the cycle touches the length counters, and the sequencer clocks them at its half frames only. -/
theorem lengthCounters : Obligations.LengthCounters := by
  intro s hs n half next a
  obtain ⟨-, -, -, -, haddr⟩ := hs.apu
  obtain ⟨u, before, after⟩ := apuTick_sequencer haddr
  have hnext : lengthsOf a = (lengthsOf s.apu).map fun c => (c.1, next c.1 c.2) := by
    rw [after.lengths, lengthsOf_frameSequencer, before.lengths, before.frameCycle, before.seqMode]
    by_cases hhalf : half
    · rw [if_pos ((sequencerEvent_half _ _).mpr hhalf)]
      simp only [next, clockLength, hhalf, true_and, and_comm]
    · rw [if_neg (mt (sequencerEvent_half _ _).mp hhalf)]
      simp only [next, hhalf, false_and, if_false, Prod.mk.eta, List.map_id']
  simp only [lengthsOf, List.map, List.cons.injEq, Prod.mk.injEq, and_true] at hnext
  obtain ⟨⟨-, hpulse1⟩, ⟨-, hpulse2⟩, ⟨-, htriangle⟩, -, hnoise⟩ := hnext
  exact ⟨hpulse1, hpulse2, htriangle, hnoise⟩

end Sys2Proof.Claims
end

section
/-! PROOFS. The DMC's reader (O55), the APU's status port (O56) and the sample drain (O57), each by its closed form. -/

namespace Sys2Proof.Claims

open Sys2Proof.Machine

/-! The DMC's reader. -/

/-- `DmcRestart()` with its address and its byte count as numbers (62_apu R1239). -/
theorem restart_eq (d : Dmc) : d.restart =
    { d with
      currentAddr := BitVec.ofNat 16 (0xC000 + d.sampleAddrReg.toNat * 64)
      bytesRemaining := BitVec.ofNat 12 (d.sampleLengthReg.toNat * 16 + 1) } := by
  have haddr : ∀ r : Byte, 0xC000 + zext16 r * 64 = BitVec.ofNat 16 (0xC000 + r.toNat * 64) := by decide +kernel
  have hlength : ∀ r : Byte, r.setWidth 12 * 16 + 1 = BitVec.ofNat 12 (r.toNat * 16 + 1) := by decide +kernel
  simp only [Dmc.restart, haddr, hlength]

/-- The end of a sample: it restarts, or raises the interrupt where that is enabled (62_apu R1239). -/
theorem dmcSampleEnd_eq (s : State) : dmcSampleEnd s =
    { s with apu := { s.apu with
      dmc := if s.apu.dmc.loop then s.apu.dmc.restart else s.apu.dmc
      dmcIrq := s.apu.dmcIrq || (!s.apu.dmc.loop && s.apu.dmc.irqEnable) } } := by
  unfold dmcSampleEnd
  cases hloop : s.apu.dmc.loop
  · cases hirq : s.apu.dmc.irqEnable
    · simp
    · simp only [Bool.not_false, Bool.and_self, Bool.or_true]
      rfl
  · simp [State.setDmc]

/-- An address of the cartridge's program space holds the mapped byte. -/
theorem memoryAt_high {a : Word} (h : 0x8000 ≤ a.toNat) {s : State} : memoryAt s a = some (s.cart.prgByte a.toNat) := by
  have hmem : s.isMemory a = true := by simp only [State.isMemory, h, decide_true, Bool.or_true, Bool.true_or]
  rw [memoryAt, if_pos hmem, busRead_high h]

/-- The DMC's registers once the byte `v` at its address is fetched, its sample not at its end (62_apu R1239). -/
def dmcFetched (v : Byte) (d : Dmc) : Dmc :=
  { d with
    sampleBuffer := v, bufferEmpty := false, currentAddr := dmcNextAddr d.currentAddr, bytesRemaining := d.bytesRemaining - 1 }

/-- A fetch of the DMC's reader, which ends the sample where one byte remained (62_apu R1239). -/
theorem dmcFill_fetch {s : State} (haddr : 0x8000 ≤ s.apu.dmc.currentAddr.toNat) (hempty : s.apu.dmc.bufferEmpty = true)
    (hbytes : s.apu.dmc.bytesRemaining ≠ 0) :
    let d := s.apu.dmc
    let v := s.cart.prgByte d.currentAddr.toNat
    dmcFill s = { s with
      apu := { s.apu with
        dmc := if d.bytesRemaining = 1 ∧ d.loop = true then (dmcFetched v d).restart else dmcFetched v d
        dmcIrq := s.apu.dmcIrq || (d.bytesRemaining == 1 && !d.loop && d.irqEnable) }
      cpu := { s.cpu with stallCycles := s.cpu.stallCycles + 4 }, openBus := v } := by
  intro d v
  have hlast : d.bytesRemaining - 1 = 0 ↔ d.bytesRemaining = 1 := sub_eq_zero
  rw [dmcFill_eq haddr, if_pos ⟨hempty, hbytes⟩]
  simp only
  by_cases h : d.bytesRemaining = 1
  · rw [if_pos (hlast.mpr h), dmcSampleEnd_eq]
    simp only [h, true_and, beq_self_eq_true, Bool.true_and]
    rfl
  · rw [if_neg (mt hlast.mp h), beq_eq_false_iff_ne.mpr h]
    simp only [h, false_and, if_false, Bool.false_and, Bool.or_false]
    rfl

/-- Settles O55: the reader's address lies in the program space, so its read is the mapped byte, `dmcFill_fetch`'s `v`. -/
theorem dmcReader : Obligations.DmcReader := by
  intro s hs d t
  obtain ⟨-, -, -, -, haddr⟩ := hs.apu
  refine ⟨fun hidle => ?_, fun hempty hbytes => ?_⟩
  · have hno : ¬(d.bufferEmpty = true ∧ d.bytesRemaining ≠ 0) := by
      rintro ⟨hempty, hbytes⟩
      rcases hidle with hfull | hnone
      · rw [hfull] at hempty
        cases hempty
      · exact hbytes hnone
    exact (dmcFill_eq haddr).trans (if_neg hno)
  · have ht : t = _ := dmcFill_fetch haddr hempty hbytes
    have hbyte : t.apu.dmc.sampleBuffer = s.cart.prgByte d.currentAddr.toNat := by
      rw [ht]
      simp only
      split <;> rfl
    rw [hbyte, ht, restart_eq]
    exact ⟨memoryAt_high haddr, rfl⟩

/-! The status port. -/

theorem getLsbD_and_20 (o : Byte) (j : Nat) : (o &&& 0x20).getLsbD j = (decide (j = 5) && o.getLsbD 5) := by
  rw [show (0x20 : Byte) = bitAt 5 true from rfl, BitVec.getLsbD_and, getLsbD_bitAt (by decide)]
  by_cases h : j = 5
  · subst h
    simp
  · simp [h]

/-- Bit `j` of the status byte (62_apu R1222). -/
theorem apuStatusRead_getLsbD (s : State) (j : Nat) : (apuStatusRead s).1.getLsbD j =
    (decide (j = 0) && s.apu.pulse1.length != 0 || decide (j = 1) && s.apu.pulse2.length != 0 ||
      decide (j = 2) && s.apu.triangle.length != 0 || decide (j = 3) && s.apu.noise.length != 0 ||
      decide (j = 4) && s.apu.dmc.bytesRemaining != 0 || decide (j = 5) && s.openBus.getLsbD 5 ||
      decide (j = 6) && s.apu.frameIrq || decide (j = 7) && s.apu.dmcIrq) := by
  simp (disch := decide) only [apuStatusRead, BitVec.getLsbD_or, getLsbD_bitAt, getLsbD_and_20]

/-- Settles O56: the byte bit by bit; the write is `apuEnableWrite`'s own equation. -/
theorem apuStatusPort : Obligations.ApuStatusPort := by
  refine fun v s => ⟨?_, rfl⟩
  intro r
  have hbit (j : Nat) : r.getLsbD j = _ := apuStatusRead_getLsbD s j
  refine ⟨?_, ?_, ?_, ?_, ?_, ?_, ?_, ?_, rfl⟩ <;> rw [hbit] <;> simp

/-! The sample drain. -/

/-- The first `n` of a list, filled up to `n`, has length `n` and holds the list's elements, then the filler. -/
theorem take_append_replicate {α : Type} (l : List α) (n : Nat) (d : α) :
    (l.take n ++ List.replicate (n - l.length) d).length = n ∧
      ∀ k < n, (l.take n ++ List.replicate (n - l.length) d)[k]? = some (l.getD k d) := by
  have htaken : (l.take n).length = min n l.length := List.length_take
  constructor
  · rw [List.length_append, htaken, List.length_replicate]
    omega
  · intro k hk
    by_cases hready : k < l.length
    · rw [List.getElem?_append_left (by omega), List.getElem?_take_of_lt hk, List.getElem?_eq_getElem hready,
        List.getD_eq_getElem _ _ hready]
    · rw [List.getElem?_append_right (by omega), List.getElem?_replicate_of_lt (by omega), List.getD_eq_default _ _ (by omega)]

/-- Settles O57: `drainSamples` takes from the ready queue and fills up with zeros. -/
theorem drainSamples : Obligations.DrainSamples := by
  intro n s
  obtain ⟨hlength, hvalues⟩ := take_append_replicate s.apu.out.ready n 0
  exact ⟨hlength, hvalues, rfl⟩

end Sys2Proof.Claims
end

section
/-! PROOFS. Power-on (O44) and save states (O59): an inserted image's whole state, and when a snapshot fits a cartridge. -/

namespace Sys2Proof.Claims

open Sys2Proof.Machine

/-! Insertion. -/

theorem mapperOf_supported {n : Nat} (h : n = 0 ∨ n = 2 ∨ n = 3) :
    mapperOf n = some (if n = 0 then .nrom else if n = 2 then .uxrom 0 else .cnrom 0) := by
  rcases h with rfl | rfl | rfl <;> rfl

theorem mapperOf_unsupported {n : Nat} (h0 : n ≠ 0) (h2 : n ≠ 2) (h3 : n ≠ 3) : mapperOf n = none := by
  unfold mapperOf
  split
  · exact absurd rfl h0
  · exact absurd rfl h2
  · exact absurd rfl h3
  · rfl

theorem insertCartridge_supported {c : CartImage} {mapper : Mapper} (h : mapperOf c.mapperNumber = some mapper) (m : PowerOnMemory)
    (s : State) : insertCartridge c m s = powerOn (fillMemories m { s with cart := cartOf c mapper }) := by
  simp only [insertCartridge, h]

theorem insertCartridge_unsupported {c : CartImage} (h : mapperOf c.mapperNumber = none) (m : PowerOnMemory) (s : State) :
    insertCartridge c m s = { s with fault := some (.unsupportedMapper c.mapperNumber) } := by
  simp only [insertCartridge, h]

theorem flags_cpuReset : flags State.cpuReset.p =
    { n := false, v := false, u := true, b := false, d := false, i := true, z := false, c := false } := by decide

/-- Settles O44: an inserted image's power-on by `powerOn_eq`; an unsupported mapper's record halts the machine. -/
theorem powerOnState : Obligations.PowerOnState := by
  intro c m s t
  refine ⟨fun h => ?_, fun h0 h2 h3 => ?_⟩
  · have ht : t = _ := (insertCartridge_supported (mapperOf_supported h) m s).trans (powerOn_eq _)
    rw [ht]
    have hpulses : ∀ q ∈ [State.pulseReset, State.pulseReset], q = State.pulseReset := by simp
    exact ⟨rfl, rfl, rfl, rfl, rfl, flags_cpuReset, rfl, rfl, rfl, rfl, rfl, rfl, rfl, rfl, rfl, rfl, rfl, rfl, rfl, rfl, rfl,
      rfl, hpulses, rfl, rfl, rfl, rfl⟩
  · have ht : t = _ := insertCartridge_unsupported (mapperOf_unsupported h0 h2 h3) m s
    rw [ht]
    exact ⟨rfl, step_halted rfl⟩

/-! Save states. -/

/-- What makes a snapshot of one cartridge fit another (70_reset_and_hazards R1316). -/
def SameShape (c d : Cart) : Prop := c.shape = d.shape ∧ c.mapper.number = d.mapper.number

theorem sameShape_iff (c d : Cart) : SameShape c d ↔ c.mapper.number = d.mapper.number ∧ c.prgBanks = d.prgBanks ∧
    c.chrBanks = d.chrBanks ∧ c.battery = d.battery ∧ vramSize c.mirroring = vramSize d.mirroring := by
  simp only [SameShape, Cart.shape, Cart.prgRamPresent, CartShape.mk.injEq]
  tauto

theorem sameShape_of_image {c d : Cart} (h : c.image = d.image) : SameShape c d := by
  simp only [Cart.image, Prod.mk.injEq] at h
  obtain ⟨hnumber, hprg, hchr, hmirroring, hbattery, -, -⟩ := h
  exact (sameShape_iff c d).mpr ⟨hnumber, hprg, hchr, hbattery, congrArg vramSize hmirroring⟩

/-- A snapshot of a cartridge of the same shape restores each component, in the cartridge its RAM and its mapper only. -/
theorem loadState_createSaveState {s t : State} (hfault : t.fault = none) (h : SameShape s.cart t.cart) :
    loadState (createSaveState s) t =
      .ok { s with
        cart := { t.cart with mapper := s.cart.mapper, prgRam := s.cart.prgRam, chrRam := s.cart.chrRam }
        fault := none, host := t.host } := by
  rw [← hfault]
  exact (if_neg (not_not.mpr hfault)).trans (if_pos h)

theorem loadState_shapeMismatch {s t : State} (hfault : t.fault = none) (h : ¬SameShape s.cart t.cart) :
    loadState (createSaveState s) t = .error .shapeMismatch :=
  (if_neg (not_not.mpr hfault)).trans (if_neg h)

/-- A refused snapshot leaves the machine as it was (70_reset_and_hazards R1316). -/
theorem hostCall_loadState_refused {v : SaveState} {t : State} {r : HostRefusal} (h : loadState v t = .error r) :
    (hostCall (.loadState v) t).2 = t := by
  unfold hostCall
  split
  · rfl
  · simp only [answerCall, h]

/-- With one image, one cartridge has its RAM and its mapper from the other and is the other. -/
theorem cart_eq_of_image {c d : Cart} (h : c.image = d.image) :
    { c with mapper := d.mapper, prgRam := d.prgRam, chrRam := d.chrRam } = d := by
  simp only [Cart.image, Prod.mk.injEq] at h
  obtain ⟨-, hprg, hchr, hmirroring, hbattery, hrom, hchrRom⟩ := h
  rw [hprg, hchr, hmirroring, hbattery, hrom, hchrRom]

/-- Settles O59: an equal image is an equal shape, and what the image fixes is all a snapshot leaves to the cartridge. -/
theorem saveAndRestore : Obligations.SaveAndRestore := by
  intro s t
  have restored (u : State) (hfault : u.fault = none) (himage : u.cart.image = s.cart.image) :
      loadState (createSaveState s) u = .ok { s with fault := none, host := u.host } := by
    rw [loadState_createSaveState hfault (sameShape_of_image himage.symm), cart_eq_of_image himage]
  refine ⟨fun hfault => ?_, restored t, fun hfault hshape => ?_, fun hfault => if_pos hfault⟩
  · rw [restored s hfault rfl, ← hfault]
  · have hrefused : loadState (createSaveState s) t = .error .shapeMismatch :=
      loadState_shapeMismatch hfault (by rw [sameShape_iff]; tauto)
    exact ⟨hrefused, hostCall_loadState_refused hrefused⟩

end Sys2Proof.Claims
end

section
/-! PROOFS. The idle loop (O60): a step there is one `JMP` to PC, and its fetches leave the loop in place. -/

namespace Sys2Proof.Claims

open Sys2Proof.Machine

/-! The loop in memory. -/

/-- In memory an idle loop is its three bytes (70_reset_and_hazards R1321). -/
theorem atIdleLoop_iff_bytes {s : State} (m0 : s.isMemory s.cpu.pc = true) (m1 : s.isMemory (s.cpu.pc + 1) = true)
    (m2 : s.isMemory (s.cpu.pc + 2) = true) :
    s.atIdleLoop = true ↔ memoryAt s s.cpu.pc = some 0x4C ∧ memoryAt s (s.cpu.pc + 1) = some (loByte s.cpu.pc) ∧
      memoryAt s (s.cpu.pc + 2) = some (hiByte s.cpu.pc) := by
  rw [atIdleLoop_memory m0 m1 m2]
  exact (selfJump_memory m0 m1 m2).1

/-- In memory an idle loop depends on PC, RAM and the cartridge only. -/
theorem atIdleLoop_congr {s t : State} (m0 : s.isMemory s.cpu.pc = true) (m1 : s.isMemory (s.cpu.pc + 1) = true)
    (m2 : s.isMemory (s.cpu.pc + 2) = true) (hpc : t.cpu.pc = s.cpu.pc) (hram : t.ram = s.ram) (hcart : t.cart = s.cart) :
    t.atIdleLoop = s.atIdleLoop := by
  have hmem (a : Word) (m : s.isMemory a = true) : t.isMemory a = true := (isMemory_congr hcart a).trans m
  rw [Bool.eq_iff_iff, atIdleLoop_iff_bytes m0 m1 m2, atIdleLoop_iff_bytes, hpc]
  · simp only [memoryAt_congr hram hcart]
  all_goals rw [hpc]
  · exact hmem _ m0
  · exact hmem _ m1
  · exact hmem _ m2

/-! The loop on open bus. -/

/-- On open bus at 0x4C4C each fetch of the loop reads 0x4C and is logged (20_memory R210). -/
theorem selfJump_openBus {s : State} (hpc : s.cpu.pc = 0x4C4C) (hbus : s.openBus = 0x4C) :
    ∃ log, selfJump s = (true, { s with host := { s.host with log := log } }) := by
  have h0 := busRead_unmapped (a := 0x4C4C) (by decide) (by decide)
  have h1 := busRead_unmapped (a := 0x4C4C + 1) (by decide) (by decide)
  have h2 := busRead_unmapped (a := 0x4C4C + 2) (by decide) (by decide)
  simp only [selfJump_eq, hpc, h0, h1, h2, State.addLog_openBus]
  exact ⟨_, Prod.ext (by rw [hbus]; rfl) rfl⟩

theorem atIdleLoop_openBus {s : State} (hpc : s.cpu.pc = 0x4C4C) (hbus : s.openBus = 0x4C) : s.atIdleLoop = true := by
  obtain ⟨log, hfirst⟩ := selfJump_openBus hpc hbus
  obtain ⟨_, hsecond⟩ := selfJump_openBus (s := { s with host := { s.host with log := log } }) hpc hbus
  simp only [State.atIdleLoop, hfirst, hsecond, Bool.and_self]

/-! The fetches and the step. -/

/-- The fetches of an idle loop change `openBus` and, on open bus, the log, and leave the loop in place. -/
theorem selfJump_of_atIdleLoop {s : State} (h : s.atIdleLoop = true) : ∃ log,
    selfJump s = (true, { s with openBus := hiByte s.cpu.pc, host := { s.host with log := log } }) ∧
      (selfJump s).2.atIdleLoop = true ∧ (s.isMemory s.cpu.pc = true → log = s.host.log) := by
  have hjumps : (selfJump s).1 = true := (Bool.and_eq_true _ _ ▸ h).1
  obtain ⟨-, -, hlast, -⟩ := atIdleLoop_reads h
  rcases atIdleLoop_place h with ⟨m0, m1, m2⟩ | ⟨hpc, hbus⟩
  · obtain ⟨-, v, hv⟩ := selfJump_memory m0 m1 m2
    have hbyte : v = hiByte s.cpu.pc := by
      have hbus : (selfJump s).2.openBus = hiByte s.cpu.pc := by rw [selfJump_eq]; exact hlast
      rw [hv] at hbus
      exact hbus
    refine ⟨s.host.log, Prod.ext hjumps ?_, ?_, fun _ => rfl⟩
    · rw [hv, hbyte]
      rfl
    · rw [hv]
      exact (atIdleLoop_congr (t := s.setOpenBus v) m0 m1 m2 rfl rfl rfl).trans h
  · obtain ⟨log, hlog⟩ := selfJump_openBus hpc hbus
    have hhigh : hiByte s.cpu.pc = s.openBus := by rw [hpc, hbus]; rfl
    have hmem : s.isMemory s.cpu.pc = false := by rw [hpc]; rfl
    refine ⟨log, by rw [hlog, hhigh], ?_, fun m => ?_⟩
    · rw [hlog]
      exact atIdleLoop_openBus hpc hbus
    · rw [hmem] at m
      cases m

theorem selfJump_withCpu (s : State) (c : Cpu) (h : c.pc = s.cpu.pc) :
    selfJump { s with cpu := c } = ((selfJump s).1, { (selfJump s).2 with cpu := c }) := by
  simp only [selfJump_eq, busRead_withCpu, h]

/-- Three fetches as three reads; they leave what `selfJump` does, but for PC. -/
theorem fetchBytes_three (s : State) : fetchBytes 3 s =
    let op := busRead s.cpu.pc s
    let lo := busRead (s.cpu.pc + 1) op.2
    let hi := busRead (s.cpu.pc + 2) lo.2
    ([op.1, lo.1, hi.1], (selfJump s).2.setPc (s.cpu.pc + 3)) := by
  have h2 : s.cpu.pc + 1 + 1 = s.cpu.pc + 2 := by rw [BitVec.add_assoc]; rfl
  have h3 : s.cpu.pc + 2 + 1 = s.cpu.pc + 3 := by rw [BitVec.add_assoc]; rfl
  simp only [fetchBytes, fetch8, State.setPc, busRead_cpu, busRead_withCpu, selfJump_eq, h2, h3]

/-- Where the fetches at PC are a jump to itself, the instruction is that jump, of 3 cycles (44_control R800). -/
theorem executeInstruction_selfJump {s : State} (h : (selfJump s).1 = true) : ∃ ea me, executeInstruction s =
    .next { (selfJump s).2 with cpu := { s.cpu with
      opcode := 0x4C, ea := ea, modeExtra := me, insnExtra := 0, cycles := s.cpu.cycles + 3 } } := by
  have hcpu : (selfJump s).2.cpu = s.cpu := by simp only [selfJump_eq, busRead_cpu]
  have hbytes : (fetchBytes 3 s).1 = encode (.jmpAbs s.cpu.pc) := by
    obtain ⟨hop, hlo, hhi⟩ := (selfJump_iff s).mp h
    simp only [fetchBytes_three, hop, hlo, hhi]
    rfl
  have hrun : executeInstruction s = exec (.jmpAbs s.cpu.pc) ((fetchBytes 3 s).2.setOpcode 0x4C) :=
    executeInstruction_of_fetchBytes (i := .jmpAbs s.cpu.pc) hbytes
  obtain ⟨ea, me, hexec⟩ := exec_jmp (i := .jmpAbs s.cpu.pc) rfl ((fetchBytes 3 s).2.setOpcode 0x4C)
  have htarget (u : State) : address (.jmpAbs s.cpu.pc) u = s.cpu.pc := op16_of rfl
  have hspent (u : State) : spent (.jmpAbs s.cpu.pc) u = u.cpu.cycles + 3 := rfl
  rw [htarget, hspent, fetchBytes_three] at hexec
  refine ⟨ea, me, (hrun.trans (by rw [fetchBytes_three])).trans (hexec.trans ?_)⟩
  rw [State.setOpcode_cpu, State.setPc_cpu, hcpu]
  rfl

/-- A step at a jump to itself (60_exceptions R1001): the stall it owed and 3 cycles, PC where it was. -/
theorem step_selfJump {s : State} (hs : runsInstruction s) (h : (selfJump s).1 = true) : ∃ c ea me,
    c = { s.cpu with
      opcode := 0x4C, ea := ea, modeExtra := me, insnExtra := 0, cycles := s.cpu.stallCycles + 3, stallCycles := 0 } ∧
      step s = .next (finishStep { (selfJump s).2 with cpu := c }) := by
  have ⟨hfault, hnmi, _⟩ := hs
  have hdrained : selfJump (drainStall s) = ((selfJump s).1, { (selfJump s).2 with cpu := (drainStall s).cpu }) :=
    selfJump_withCpu s _ rfl
  obtain ⟨ea, me, hexec⟩ := executeInstruction_selfJump (s := drainStall s) (by rw [hdrained]; exact h)
  refine ⟨_, ea, me, rfl, ?_⟩
  rw [step_instr hfault hnmi (takesIrq_of_runsInstruction hs), hexec, hdrained]
  rfl

theorem finishStep_pc (u : State) : (finishStep u).cpu.pc = u.cpu.pc := by
  obtain ⟨_, _, _, hcpu⟩ :=
    (runDevices_frame u.cpu.cycles { u with cpu := { u.cpu with totalCycles := u.cpu.totalCycles + u.cpu.cycles } }).cpu
  rw [finishStep, hcpu]

/-- No device cycle moves PC or writes memory, so an idle loop in memory stays one. -/
theorem finishStep_atIdleLoop {u : State} (h : u.atIdleLoop = true) (hmem : u.isMemory u.cpu.pc = true) :
    (finishStep u).atIdleLoop = true := by
  rcases atIdleLoop_place h with ⟨m0, m1, m2⟩ | ⟨hpc, -⟩
  · obtain ⟨-, hcart, hram, -⟩ := finishStep_keeps u
    exact (atIdleLoop_congr m0 m1 m2 (finishStep_pc u) hram hcart).trans h
  · rw [hpc] at hmem
    cases hmem

/-- Settles O60: in memory the loop is its three bytes; the step is `step_selfJump`'s, its fetches `selfJump_of_atIdleLoop`'s. -/
theorem idleLoop : Obligations.IdleLoop := by
  intro s
  refine ⟨atIdleLoop_iff_bytes, fun hs h => ?_⟩
  obtain ⟨log, hjump, hstays, hlog⟩ := selfJump_of_atIdleLoop h
  obtain ⟨c, ea, me, hc, hstep⟩ := step_selfJump hs (by rw [hjump])
  have hpc : c.pc = s.cpu.pc := by rw [hc]
  have hidle : State.atIdleLoop { (selfJump s).2 with cpu := c } = true :=
    (atIdleLoop_withCpu _ c (by rw [hjump, hpc])).trans hstays
  refine ⟨_, log, hstep, hidle, ?_, fun m => ⟨hlog m, finishStep_atIdleLoop hidle ?_⟩, fun m => ?_⟩
  · rw [hjump, hc]
    rfl
  · rw [isMemory_congr (s := s) (by rw [hjump]), hpc, m]
  · rcases atIdleLoop_place h with ⟨m0, -, -⟩ | hplace
    · rw [m] at m0
      cases m0
    · exact hplace

end Sys2Proof.Claims
end
